-- ==== Sys2Proof/Word.lean ====
section
/-! DEFINITION. The words of the block: a byte, a CPU address, a transaction word (spec R11, R90), and the half-open
address ranges of the spec's notation (R10). -/
namespace Sys2Proof

/-- A data value, 8 bits (R11). -/
abbrev Byte := BitVec 8

/-- A CPU address, 16 bits (R11, R60). -/
abbrev Addr := BitVec 16

/-- A transaction packed into 25 bits: direction, address, data (R90). -/
abbrev TWord := BitVec 25

/-- `[lo, hi)`, the half-open range of addresses of R10. -/
def within (lo hi : Nat) (a : Addr) : Bool := decide (lo ≤ a.toNat) && decide (a.toNat < hi)

end Sys2Proof
end

