-- ==== Sys2Proof/Config.lean ====
section
/-! DEFINITION. What is fixed for a run (spec 00_scope.md R6 to R9) and the free values: the cartridge profile, the bank
counts, the fifteen addresses `A_*`, and the two collaborators whose answers the spec leaves open (R18). -/
namespace Sys2Proof

/-- `KIND`, the controller kind of the cartridge profile (R6); `other` stands for every kind behind the source's "…". -/
inductive Kind where
  | noController
  | mbc1
  | mbc3
  | other
deriving DecidableEq, Repr

/-- The fifteen parameters `A_*` of R8, which D2 leaves open: the base of the object-attribute table and the fourteen register
addresses. -/
structure AddrMap where
  /-- `A_OAM`, the destination of object-memory DMA (R8, R181). -/
  oam   : Addr
  lcdc  : Addr
  stat  : Addr
  dma   : Addr
  vbk   : Addr
  hdma1 : Addr
  hdma2 : Addr
  hdma3 : Addr
  hdma4 : Addr
  hdma5 : Addr
  bgpi  : Addr
  bgpd  : Addr
  obpi  : Addr
  obpd  : Addr
  svbk  : Addr
deriving DecidableEq, Repr

/-- The default column of R8. The fourteen register addresses are PRESUMED by the spec itself (general knowledge, GK2): log
entry 3. The source gives `A_OAM`. -/
def AddrMap.default : AddrMap where
  oam   := 0xfe00
  lcdc  := 0xff40
  stat  := 0xff41
  dma   := 0xff46
  vbk   := 0xff4f
  hdma1 := 0xff51
  hdma2 := 0xff52
  hdma3 := 0xff53
  hdma4 := 0xff54
  hdma5 := 0xff55
  bgpi  := 0xff68
  bgpd  := 0xff69
  obpi  := 0xff6a
  obpd  := 0xff6b
  svbk  := 0xff70

/-- The fourteen register addresses in one list, in the order of R8's table. -/
def AddrMap.toList (r : AddrMap) : List Addr :=
  [r.lcdc, r.stat, r.dma, r.vbk, r.hdma1, r.hdma2, r.hdma3, r.hdma4, r.hdma5, r.bgpi, r.bgpd, r.obpi, r.obpd, r.svbk]

/-- The bytes of one object-attribute table (R181). -/
def oamLength : Nat := 160

/-- The parameters of R6 to R8, fixed for the whole run: the CartridgeProfile, the two bank counts and the register map. -/
structure Config where
  /-- `KIND`. -/
  kind       : Kind
  /-- `ROM_CLASS`. -/
  romClass   : Nat
  /-- `RAM_CLASS`; no rule reads it but the `ConfigFatal` record (R231). -/
  ramClass   : Nat
  /-- `COLOR`. -/
  color      : Bool
  /-- `N_ROM_BANKS`. -/
  nRomBanks  : Nat
  /-- `N_ERAM_BANKS`. -/
  nEramBanks : Nat
  regs       : AddrMap
deriving DecidableEq, Repr

/-- The spec's reference configuration T0 (95_test_vectors.md section 1). DESIGN CHOICE as the profile that
`State.reset` holds (log entry 1): every statement is about every configuration. -/
def Config.reference : Config where
  kind       := .mbc1
  romClass   := 2
  ramClass   := 3
  color      := true
  nRomBanks  := 8
  nEramBanks := 4
  regs       := .default

/-- One call that changed the sound collaborator (R18), or a change of its own between two transactions (D4). -/
inductive SoundCall where
  /-- `SndWrite(a, v)`. -/
  | write (a : Addr) (v : Byte)
  /-- `SndWriteWave(a, v)`. -/
  | writeWave (a : Addr) (v : Byte)
  /-- The collaborator changed by itself, in the way numbered `n`. -/
  | drift (n : Nat)
deriving DecidableEq, Repr

/-- One call that changed the clock collaborator (R18), or a change of its own between two transactions (D4). -/
inductive ClockCall where
  /-- `RtcWrite(sel, v)`. -/
  | write (sel v : Byte)
  /-- `RtcLatch()`. -/
  | latch
  /-- The collaborator changed by itself, in the way numbered `n`. -/
  | drift (n : Nat)
deriving DecidableEq, Repr

/-- FREE VALUE (log entry 5). `SndRead(a)`: the sound collaborator's answer. A collaborator's state is a function of the
calls made to it, newest first; R18 says the answer depends on that state and the argument only. -/
opaque Config.soundRead : List SoundCall → Addr → Byte

/-- FREE VALUE (log entry 5). `RtcRead(sel)`: the clock collaborator's answer, likewise (R18, R174). -/
opaque Config.clockRead : List ClockCall → Byte → Byte

end Sys2Proof
end

