-- ==== Sys2Proof/Syntax.lean ====
section
/-! DEFINITION. The operations of the block: one constructor per mnemonic of spec/opcode_table.json (R102), and the mode
that decides which of them a transaction word stands for (R105). -/
namespace Sys2Proof

/-- What changes the decoding of a transaction with the same direction, address and data (R105), with the register map
that the table's named rows are computed from. `COLOR` selects no row: it gates side effects only. -/
structure Mode where
  kind     : Kind
  bankMode : Bool
  rtcSel   : Byte
  wramBank : BitVec 3
  regs     : AddrMap
deriving DecidableEq, Repr

/-- The operation map of R102. An operation at a named register carries no address: its address is the parameter of R8.
A `WC` operation carries the address and byte it was written with, although most of their bits are ignored (R93 to R98). -/
inductive Instr where
  | rdRomx (addr : Addr)
  | rdVram (addr : Addr)
  | rdEram (addr : Addr)
  | rdRtc (addr : Addr)
  | rdWramx (addr : Addr)
  | rdSnd (addr : Addr)
  | rdLcdc
  | rdStat
  | rdBgpd
  | rdObpd
  | rdFlat (addr : Addr)
  | wcNopLow (addr : Addr) (v : Byte)
  | wcNopKind (addr : Addr) (v : Byte)
  | wcMbc1Romb (addr : Addr) (v : Byte)
  | wcMbc3Romb (addr : Addr) (v : Byte)
  | wcMbc1Romhi (addr : Addr) (v : Byte)
  | wcMbc1Ramb (addr : Addr) (v : Byte)
  | wcMbc3Ramb (addr : Addr) (v : Byte)
  | wcMbc3Rtcsel (addr : Addr) (v : Byte)
  | wcMbc3Secign (addr : Addr) (v : Byte)
  | wcMbc1Mode (addr : Addr) (v : Byte)
  | wcMbc3Latch (addr : Addr) (v : Byte)
  | wmVram (addr : Addr) (v : Byte)
  | wmEram (addr : Addr) (v : Byte)
  | wmRtc (addr : Addr) (v : Byte)
  | wmWramx (addr : Addr) (v : Byte)
  | wmSndReg (addr : Addr) (v : Byte)
  | wmSndWave (addr : Addr) (v : Byte)
  | wmLcdc (v : Byte)
  | wmStat (v : Byte)
  | wmBgpi (v : Byte)
  | wmBgpd (v : Byte)
  | wmObpi (v : Byte)
  | wmObpd (v : Byte)
  | wmVbk (v : Byte)
  | wmSvbk (v : Byte)
  | wmDma (v : Byte)
  | wmHdma1 (v : Byte)
  | wmHdma2 (v : Byte)
  | wmHdma3 (v : Byte)
  | wmHdma4 (v : Byte)
  | wmHdma5 (v : Byte)
  | wmFlat (addr : Addr) (v : Byte)
deriving DecidableEq, Repr

end Sys2Proof
end

