-- ==== Sys2Proof/WellFormed.lean ====
section
/-! DEFINITION. Which register maps and which operations are well formed: the constraints of R8, and the address pattern
and further condition of each row of R102. -/
namespace Sys2Proof

/-- The two sound windows (R45). -/
def inSoundWindows (a : Addr) : Bool := within 0xff10 0xff27 a || within 0xff30 0xff40 a

/-- The object-attribute table `[A_OAM, A_OAM + 0xa0)` (R8). -/
def AddrMap.inOam (r : AddrMap) (a : Addr) : Bool := within r.oam.toNat (r.oam.toNat + oamLength) a

/-- Where R8 lets a register address lie. -/
def AddrMap.registerPlace (r : AddrMap) (a : Addr) : Bool :=
  decide (0xe000 ≤ a.toNat) && !inSoundWindows a && !r.inOam a

/-- The table at `o` does not meet `[lo, hi)`. -/
def oamClearOf (o : Addr) (lo hi : Nat) : Bool := decide (o.toNat + oamLength ≤ lo) || decide (hi ≤ o.toNat)

/-- Where the object-attribute table can lie: R181 and R191 call it plain flat storage, so it lies above the cartridge and banked
windows and ends in the address space, it is clear of the window that banked working RAM can take, and of the two sound windows. R8
states no constraint of its own for `A_OAM`: DEDUCED, log entry 28. -/
def oamPlace (o : Addr) : Bool :=
  decide (0xc000 ≤ o.toNat) && decide (o.toNat + oamLength ≤ 0x10000) && oamClearOf o 0xd000 0xe000 &&
    oamClearOf o 0xff10 0xff27 && oamClearOf o 0xff30 0xff40

/-- The constraints on a choice of addresses: R8's on the fourteen registers, and the table's place. -/
def AddrMap.wf (r : AddrMap) : Bool := decide r.toList.Nodup && oamPlace r.oam && r.toList.all r.registerPlace

/-- `wramBank > 1`: the working-RAM window reaches banked storage (R61). -/
def Mode.wramBanked (m : Mode) : Bool := decide (1 < m.wramBank.toNat)

/-- The controller kinds with no commands (R142). -/
def Kind.isPlain (k : Kind) : Bool := k == .noController || k == .other

/-- The address pattern and the further condition of the operation's row in R102. -/
def Instr.wf (m : Mode) : Instr → Bool
  | .rdRomx a => within 0x4000 0x8000 a
  | .rdVram a => within 0x8000 0xa000 a
  | .rdEram a => within 0xa000 0xc000 a && m.rtcSel == 0
  | .rdRtc a => within 0xa000 0xc000 a && m.rtcSel != 0
  | .rdWramx a => within 0xd000 0xe000 a && m.wramBanked
  | .rdSnd a => inSoundWindows a
  | .rdLcdc => true
  | .rdStat => true
  | .rdBgpd => true
  | .rdObpd => true
  | .rdFlat a =>
    !within 0x4000 0xc000 a && !(m.wramBanked && within 0xd000 0xe000 a) && !inSoundWindows a &&
      [m.regs.lcdc, m.regs.stat, m.regs.bgpd, m.regs.obpd].all (· != a)
  | .wcNopLow a _ => within 0x0000 0x2000 a
  | .wcNopKind a _ => within 0x2000 0x8000 a && m.kind.isPlain
  | .wcMbc1Romb a _ => within 0x2000 0x4000 a && m.kind == .mbc1
  | .wcMbc3Romb a _ => within 0x2000 0x4000 a && m.kind == .mbc3
  | .wcMbc1Romhi a _ => within 0x4000 0x6000 a && m.kind == .mbc1 && !m.bankMode
  | .wcMbc1Ramb a _ => within 0x4000 0x6000 a && m.kind == .mbc1 && m.bankMode
  | .wcMbc3Ramb a v => within 0x4000 0x6000 a && m.kind == .mbc3 && decide (v.toNat ≤ 0x07)
  | .wcMbc3Rtcsel a v =>
    within 0x4000 0x6000 a && m.kind == .mbc3 && decide (0x08 ≤ v.toNat) && decide (v.toNat ≤ 0x0c)
  | .wcMbc3Secign a v => within 0x4000 0x6000 a && m.kind == .mbc3 && decide (0x0d ≤ v.toNat)
  | .wcMbc1Mode a _ => within 0x6000 0x8000 a && m.kind == .mbc1
  | .wcMbc3Latch a _ => within 0x6000 0x8000 a && m.kind == .mbc3
  | .wmVram a _ => within 0x8000 0xa000 a
  | .wmEram a _ => within 0xa000 0xc000 a && m.rtcSel == 0
  | .wmRtc a _ => within 0xa000 0xc000 a && m.rtcSel != 0
  | .wmWramx a _ => within 0xd000 0xe000 a && m.wramBanked
  | .wmSndReg a _ => within 0xff10 0xff27 a
  | .wmSndWave a _ => within 0xff30 0xff40 a
  | .wmLcdc _ => true
  | .wmStat _ => true
  | .wmBgpi _ => true
  | .wmBgpd _ => true
  | .wmObpi _ => true
  | .wmObpd _ => true
  | .wmVbk _ => true
  | .wmSvbk _ => true
  | .wmDma _ => true
  | .wmHdma1 _ => true
  | .wmHdma2 _ => true
  | .wmHdma3 _ => true
  | .wmHdma4 _ => true
  | .wmHdma5 _ => true
  | .wmFlat a _ =>
    decide (0xc000 ≤ a.toNat) && !(m.wramBanked && within 0xd000 0xe000 a) && !inSoundWindows a &&
      m.regs.toList.all (· != a)

end Sys2Proof
end

