-- ==== Sys2Proof/Decode.lean ====
section
/-! DEFINITION. From a transaction word to an operation and back (spec 30_encoding.md): the fields of R90, the
classifications of R61, R62, R140 and R200, the decoder, the encoder, and the opcode table with its own selection rule. -/
namespace Sys2Proof

/-! ## Fields of the transaction word (R90) -/

/-- Bit 24: set in a write. -/
def TWord.isWrite (w : TWord) : Bool := w.getLsbD 24

/-- Bits 23:8. -/
def TWord.addr (w : TWord) : Addr := w.extractLsb' 8 16

/-- Bits 7:0. -/
def TWord.data (w : TWord) : Byte := w.extractLsb' 0 8

/-- The word of a read; its data bits are 0 (R90). -/
def readWord (a : Addr) : TWord := 0#1 ++ a ++ 0#8

/-- The word of a write. -/
def writeWord (a : Addr) (v : Byte) : TWord := 1#1 ++ a ++ v

/-! ## Classifications -/

/-- The region tags of a read (R61). -/
inductive RegionR where
  | romx | vram | rtc | eram | wramx | snd | lcdc | stat | bgpd | obpd | flat
deriving DecidableEq, Repr

/-- The store regions of a write (R62). -/
inductive RegionW where
  | cart | vram | rtc | eram | wramx | flat
deriving DecidableEq, Repr

/-- The rows of the dispatcher (R200, R213), and `plain` for an address that has none. -/
inductive IoRow where
  | lcdc | stat | bgpi | bgpd | obpi | obpd | sndReg | sndWave | vbk | svbk | dma | hdma1 | hdma2 | hdma3 | hdma4 | hdma5
  | plain
deriving DecidableEq, Repr

/-- `RegionR(addr)`: the first line of R61 that holds. -/
def regionR (m : Mode) (a : Addr) : RegionR :=
  if within 0x4000 0x8000 a then .romx
  else if within 0x8000 0xa000 a then .vram
  else if within 0xa000 0xc000 a then (if m.rtcSel != 0 then .rtc else .eram)
  else if m.wramBanked && within 0xd000 0xe000 a then .wramx
  else if within 0xff10 0xff27 a || within 0xff30 0xff40 a then .snd
  else if a == m.regs.lcdc then .lcdc
  else if a == m.regs.stat then .stat
  else if a == m.regs.bgpd then .bgpd
  else if a == m.regs.obpd then .obpd
  else .flat

/-- `RegionW(addr)`: the first line of R62 that holds. -/
def regionW (m : Mode) (a : Addr) : RegionW :=
  if a.toNat ≤ 0x7fff then .cart
  else if within 0x8000 0xa000 a then .vram
  else if within 0xa000 0xc000 a then (if m.rtcSel != 0 then .rtc else .eram)
  else if m.wramBanked && within 0xd000 0xe000 a then .wramx
  else .flat

/-- The dispatcher's lookup (R200), in its order. -/
def ioRow (r : AddrMap) (a : Addr) : IoRow :=
  if a == r.lcdc then .lcdc
  else if a == r.stat then .stat
  else if a == r.bgpi then .bgpi
  else if a == r.bgpd then .bgpd
  else if a == r.obpi then .obpi
  else if a == r.obpd then .obpd
  else if within 0xff10 0xff27 a then .sndReg
  else if within 0xff30 0xff40 a then .sndWave
  else if a == r.vbk then .vbk
  else if a == r.svbk then .svbk
  else if a == r.dma then .dma
  else if a == r.hdma5 then .hdma5
  else if a == r.hdma1 then .hdma1
  else if a == r.hdma2 then .hdma2
  else if a == r.hdma3 then .hdma3
  else if a == r.hdma4 then .hdma4
  else .plain

/-! ## The decoder -/

/-- `Read(addr)` selects one operation (R110). -/
def decodeRead (m : Mode) (a : Addr) : Instr :=
  match regionR m a with
  | .romx => .rdRomx a
  | .vram => .rdVram a
  | .rtc => .rdRtc a
  | .eram => .rdEram a
  | .wramx => .rdWramx a
  | .snd => .rdSnd a
  | .lcdc => .rdLcdc
  | .stat => .rdStat
  | .bgpd => .rdBgpd
  | .obpd => .rdObpd
  | .flat => .rdFlat a

/-- `Command(addr, v)` selects one operation (R140). -/
def decodeCommand (m : Mode) (a : Addr) (v : Byte) : Instr :=
  if a.toNat < 0x2000 then .wcNopLow a v
  else
    match m.kind with
    | .noController => .wcNopKind a v
    | .other => .wcNopKind a v
    | .mbc1 =>
      if a.toNat < 0x4000 then .wcMbc1Romb a v
      else if a.toNat < 0x6000 then (if m.bankMode then .wcMbc1Ramb a v else .wcMbc1Romhi a v)
      else .wcMbc1Mode a v
    | .mbc3 =>
      if a.toNat < 0x4000 then .wcMbc3Romb a v
      else if a.toNat < 0x6000 then
        (if v.toNat ≤ 0x07 then .wcMbc3Ramb a v
         else if v.toNat ≤ 0x0c then .wcMbc3Rtcsel a v
         else .wcMbc3Secign a v)
      else .wcMbc3Latch a v

/-- A store into `flat` and the dispatcher row it takes (R124, R200): one operation of R102. -/
def decodeFlatStore (m : Mode) (a : Addr) (v : Byte) : Instr :=
  match ioRow m.regs a with
  | .lcdc => .wmLcdc v
  | .stat => .wmStat v
  | .bgpi => .wmBgpi v
  | .bgpd => .wmBgpd v
  | .obpi => .wmObpi v
  | .obpd => .wmObpd v
  | .sndReg => .wmSndReg a v
  | .sndWave => .wmSndWave a v
  | .vbk => .wmVbk v
  | .svbk => .wmSvbk v
  | .dma => .wmDma v
  | .hdma1 => .wmHdma1 v
  | .hdma2 => .wmHdma2 v
  | .hdma3 => .wmHdma3 v
  | .hdma4 => .wmHdma4 v
  | .hdma5 => .wmHdma5 v
  | .plain => .wmFlat a v

/-- `Write(addr, v)` selects one operation (R124). -/
def decodeWrite (m : Mode) (a : Addr) (v : Byte) : Instr :=
  match regionW m a with
  | .cart => decodeCommand m a v
  | .vram => .wmVram a v
  | .rtc => .wmRtc a v
  | .eram => .wmEram a v
  | .wramx => .wmWramx a v
  | .flat => decodeFlatStore m a v

/-- The operation a transaction word stands for in a mode. Every word stands for one: none is illegal (R102, R103). -/
def decode (m : Mode) (w : TWord) : Instr :=
  if w.isWrite then decodeWrite m w.addr w.data else decodeRead m w.addr

/-- Why a number is no transaction word. -/
inductive DecodeError where
  /-- It has a bit above bit 24, which no transaction has (R90). Safe: no transaction is left out. -/
  | notATransactionWord
deriving DecidableEq, Repr

/-- The decoder on any number: a number wider than 25 bits is rejected by name (R90). -/
def decodeNat (m : Mode) (w : Nat) : Except DecodeError Instr :=
  if w < 2 ^ 25 then .ok (decode m (BitVec.ofNat 25 w)) else .error .notATransactionWord

/-- The mode of the machine right after reset (R262, R263) in the reference configuration: log entries 1 and 6. -/
def Mode.atReset : Mode where
  kind     := Config.reference.kind
  bankMode := false
  rtcSel   := 0
  wramBank := 1
  regs     := Config.reference.regs

/-- The operation the decoder reads from a table word in the mode right after reset. `nbits` is not needed: every
transaction has one length (R90). Rows of R102 with another condition are reached in other modes: log entry 6. -/
def decodeTableWord (_nbits w : Nat) : Option Instr := (decodeNat .atReset w).toOption

/-! ## The encoder -/

/-- The word of an operation (R90), its address the parameter of R8 for a named register. -/
def encode (m : Mode) : Instr → TWord
  | .rdRomx a => readWord a
  | .rdVram a => readWord a
  | .rdEram a => readWord a
  | .rdRtc a => readWord a
  | .rdWramx a => readWord a
  | .rdSnd a => readWord a
  | .rdLcdc => readWord m.regs.lcdc
  | .rdStat => readWord m.regs.stat
  | .rdBgpd => readWord m.regs.bgpd
  | .rdObpd => readWord m.regs.obpd
  | .rdFlat a => readWord a
  | .wcNopLow a v => writeWord a v
  | .wcNopKind a v => writeWord a v
  | .wcMbc1Romb a v => writeWord a v
  | .wcMbc3Romb a v => writeWord a v
  | .wcMbc1Romhi a v => writeWord a v
  | .wcMbc1Ramb a v => writeWord a v
  | .wcMbc3Ramb a v => writeWord a v
  | .wcMbc3Rtcsel a v => writeWord a v
  | .wcMbc3Secign a v => writeWord a v
  | .wcMbc1Mode a v => writeWord a v
  | .wcMbc3Latch a v => writeWord a v
  | .wmVram a v => writeWord a v
  | .wmEram a v => writeWord a v
  | .wmRtc a v => writeWord a v
  | .wmWramx a v => writeWord a v
  | .wmSndReg a v => writeWord a v
  | .wmSndWave a v => writeWord a v
  | .wmLcdc v => writeWord m.regs.lcdc v
  | .wmStat v => writeWord m.regs.stat v
  | .wmBgpi v => writeWord m.regs.bgpi v
  | .wmBgpd v => writeWord m.regs.bgpd v
  | .wmObpi v => writeWord m.regs.obpi v
  | .wmObpd v => writeWord m.regs.obpd v
  | .wmVbk v => writeWord m.regs.vbk v
  | .wmSvbk v => writeWord m.regs.svbk v
  | .wmDma v => writeWord m.regs.dma v
  | .wmHdma1 v => writeWord m.regs.hdma1 v
  | .wmHdma2 v => writeWord m.regs.hdma2 v
  | .wmHdma3 v => writeWord m.regs.hdma3 v
  | .wmHdma4 v => writeWord m.regs.hdma4 v
  | .wmHdma5 v => writeWord m.regs.hdma5 v
  | .wmFlat a v => writeWord a v

/-! ## The opcode table (spec/opcode_table.json) and its own selection rule (R102)

The table is a second description of decoding. The machine does not use it: a statement says the two agree. -/

/-- One row of the table: a pattern over the word, the condition on the mode, the priority number, and the operation. -/
structure Row where
  mnemonic : String
  mtch     : TWord
  mask     : TWord
  cond     : Mode → Bool
  prio     : Nat
  make     : Addr → Byte → Instr

/-- A read row or a plain row: no condition on the mode. -/
def always (_ : Mode) : Bool := true

/-- The rows of format `RD`. -/
def readRows (r : AddrMap) : List Row :=
  [ ⟨"RD.ROMX", 0x0400000, 0x1c00000, always, 1, fun a _ => .rdRomx a⟩,
    ⟨"RD.VRAM", 0x0800000, 0x1e00000, always, 2, fun a _ => .rdVram a⟩,
    ⟨"RD.ERAM", 0x0a00000, 0x1e00000, (·.rtcSel == 0), 3, fun a _ => .rdEram a⟩,
    ⟨"RD.RTC", 0x0a00000, 0x1e00000, (·.rtcSel != 0), 3, fun a _ => .rdRtc a⟩,
    ⟨"RD.WRAMX", 0x0d00000, 0x1f00000, (·.wramBanked), 4, fun a _ => .rdWramx a⟩,
    ⟨"RD.SND", 0x0ff1000, 0x1fff000, always, 5, fun a _ => .rdSnd a⟩,
    ⟨"RD.SND", 0x0ff2000, 0x1fffc00, always, 5, fun a _ => .rdSnd a⟩,
    ⟨"RD.SND", 0x0ff2400, 0x1fffe00, always, 5, fun a _ => .rdSnd a⟩ ] ++
  [ ⟨"RD.SND", 0x0ff2600, 0x1ffff00, always, 5, fun a _ => .rdSnd a⟩,
    ⟨"RD.SND", 0x0ff3000, 0x1fff000, always, 5, fun a _ => .rdSnd a⟩,
    ⟨"RD.LCDC", readWord r.lcdc, 0x1ffff00, always, 6, fun _ _ => .rdLcdc⟩,
    ⟨"RD.STAT", readWord r.stat, 0x1ffff00, always, 6, fun _ _ => .rdStat⟩,
    ⟨"RD.BGPD", readWord r.bgpd, 0x1ffff00, always, 6, fun _ _ => .rdBgpd⟩,
    ⟨"RD.OBPD", readWord r.obpd, 0x1ffff00, always, 6, fun _ _ => .rdObpd⟩,
    ⟨"RD.FLAT", 0x0000000, 0x1000000, always, 9, fun a _ => .rdFlat a⟩ ]

/-- The rows of format `WC`. -/
def commandRows : List Row :=
  [ ⟨"WC.NOP.LOW", 0x1000000, 0x1e00000, always, 1, fun a v => .wcNopLow a v⟩,
    ⟨"WC.NOP.KIND", 0x1200000, 0x1e00000, (·.kind.isPlain), 1, fun a v => .wcNopKind a v⟩,
    ⟨"WC.NOP.KIND", 0x1400000, 0x1c00000, (·.kind.isPlain), 1, fun a v => .wcNopKind a v⟩,
    ⟨"WC.MBC1.ROMB", 0x1200000, 0x1e00000, (·.kind == .mbc1), 1, fun a v => .wcMbc1Romb a v⟩,
    ⟨"WC.MBC3.ROMB", 0x1200000, 0x1e00000, (·.kind == .mbc3), 1, fun a v => .wcMbc3Romb a v⟩,
    ⟨"WC.MBC1.ROMHI", 0x1400000, 0x1e00000, (fun m => m.kind == .mbc1 && !m.bankMode), 1, fun a v => .wcMbc1Romhi a v⟩,
    ⟨"WC.MBC1.RAMB", 0x1400000, 0x1e00000, (fun m => m.kind == .mbc1 && m.bankMode), 1, fun a v => .wcMbc1Ramb a v⟩,
    ⟨"WC.MBC3.RAMB", 0x1400000, 0x1e000f8, (·.kind == .mbc3), 1, fun a v => .wcMbc3Ramb a v⟩ ] ++
  [ ⟨"WC.MBC3.RTCSEL", 0x1400008, 0x1e000fc, (·.kind == .mbc3), 1, fun a v => .wcMbc3Rtcsel a v⟩,
    ⟨"WC.MBC3.RTCSEL", 0x140000c, 0x1e000ff, (·.kind == .mbc3), 1, fun a v => .wcMbc3Rtcsel a v⟩,
    ⟨"WC.MBC3.SECIGN", 0x1400000, 0x1e00000, (·.kind == .mbc3), 2, fun a v => .wcMbc3Secign a v⟩,
    ⟨"WC.MBC1.MODE", 0x1600000, 0x1e00000, (·.kind == .mbc1), 1, fun a v => .wcMbc1Mode a v⟩,
    ⟨"WC.MBC3.LATCH", 0x1600000, 0x1e00000, (·.kind == .mbc3), 1, fun a v => .wcMbc3Latch a v⟩ ]

/-- The rows of format `WM`. -/
def writeRows (r : AddrMap) : List Row :=
  [ ⟨"WM.VRAM", 0x1800000, 0x1e00000, always, 1, fun a v => .wmVram a v⟩,
    ⟨"WM.ERAM", 0x1a00000, 0x1e00000, (·.rtcSel == 0), 1, fun a v => .wmEram a v⟩,
    ⟨"WM.RTC", 0x1a00000, 0x1e00000, (·.rtcSel != 0), 1, fun a v => .wmRtc a v⟩,
    ⟨"WM.WRAMX", 0x1d00000, 0x1f00000, (·.wramBanked), 1, fun a v => .wmWramx a v⟩,
    ⟨"WM.SND.REG", 0x1ff1000, 0x1fff000, always, 1, fun a v => .wmSndReg a v⟩,
    ⟨"WM.SND.REG", 0x1ff2000, 0x1fffc00, always, 1, fun a v => .wmSndReg a v⟩,
    ⟨"WM.SND.REG", 0x1ff2400, 0x1fffe00, always, 1, fun a v => .wmSndReg a v⟩,
    ⟨"WM.SND.REG", 0x1ff2600, 0x1ffff00, always, 1, fun a v => .wmSndReg a v⟩ ] ++
  [ ⟨"WM.SND.WAVE", 0x1ff3000, 0x1fff000, always, 1, fun a v => .wmSndWave a v⟩,
    ⟨"WM.LCDC", writeWord r.lcdc 0, 0x1ffff00, always, 1, fun _ v => .wmLcdc v⟩,
    ⟨"WM.STAT", writeWord r.stat 0, 0x1ffff00, always, 1, fun _ v => .wmStat v⟩,
    ⟨"WM.BGPI", writeWord r.bgpi 0, 0x1ffff00, always, 1, fun _ v => .wmBgpi v⟩,
    ⟨"WM.BGPD", writeWord r.bgpd 0, 0x1ffff00, always, 1, fun _ v => .wmBgpd v⟩,
    ⟨"WM.OBPI", writeWord r.obpi 0, 0x1ffff00, always, 1, fun _ v => .wmObpi v⟩,
    ⟨"WM.OBPD", writeWord r.obpd 0, 0x1ffff00, always, 1, fun _ v => .wmObpd v⟩,
    ⟨"WM.VBK", writeWord r.vbk 0, 0x1ffff00, always, 1, fun _ v => .wmVbk v⟩ ] ++
  [ ⟨"WM.SVBK", writeWord r.svbk 0, 0x1ffff00, always, 1, fun _ v => .wmSvbk v⟩,
    ⟨"WM.DMA", writeWord r.dma 0, 0x1ffff00, always, 1, fun _ v => .wmDma v⟩,
    ⟨"WM.HDMA1", writeWord r.hdma1 0, 0x1ffff00, always, 1, fun _ v => .wmHdma1 v⟩,
    ⟨"WM.HDMA2", writeWord r.hdma2 0, 0x1ffff00, always, 1, fun _ v => .wmHdma2 v⟩,
    ⟨"WM.HDMA3", writeWord r.hdma3 0, 0x1ffff00, always, 1, fun _ v => .wmHdma3 v⟩,
    ⟨"WM.HDMA4", writeWord r.hdma4 0, 0x1ffff00, always, 1, fun _ v => .wmHdma4 v⟩,
    ⟨"WM.HDMA5", writeWord r.hdma5 0, 0x1ffff00, always, 1, fun _ v => .wmHdma5 v⟩,
    ⟨"WM.FLAT", 0x1800000, 0x1800000, always, 9, fun a v => .wmFlat a v⟩ ]

/-- The 52 rows of the table; a named register's row has its pattern computed from the register map. -/
def opcodeTable (r : AddrMap) : List Row := readRows r ++ commandRows ++ writeRows r

/-- `(word & mask) = match` and the row's condition holds. -/
def Row.hits (m : Mode) (w : TWord) (r : Row) : Bool := (w &&& r.mask) == r.mtch && r.cond m

/-- The rows that hit, of which only those of the lowest priority number are taken (R102). -/
def tableSelect (m : Mode) (w : TWord) : List Row :=
  let hitting := (opcodeTable m.regs).filter (Row.hits m w)
  hitting.filter fun r => hitting.all fun q => decide (r.prio ≤ q.prio)

end Sys2Proof
end

