-- ==== Sys2Proof/Machine/State.lean ====
section
/-! DEFINITION. The state of the block as plain data (spec 10_state.md), its faults (60_exceptions.md), what the outside
puts to it (R13, D4), and the state right after reset (70_reset_and_hazards.md). -/
namespace Sys2Proof.Machine

/-- Memory as a list of cells in one canonical form (`Memory.wf` of Machine/Ops.lean): keys strictly rising, and no cell
that holds what an unlisted key reads as. A banked array is keyed by its linear index, bank times bank size plus offset (R67). -/
abbrev Memory := List Host.Cell

/-- The bank collections whose pointer can name no bank (R232). -/
inductive Collection where
  | rom
  | eram
deriving DecidableEq, Repr

/-- The complete list of faults (R235). A fault is sticky: it is recorded in `State.fault` by the operation that raises it,
and no later step happens (R12, R59). -/
inductive Fault where
  /-- Code 1 (R230, R231). Raised by `WC.MBC1.ROMB`, `WC.MBC3.ROMB` and `WC.MBC1.ROMHI` when `ROM_CLASS` is not in 0 to 6;
  it records `KIND`, `ROM_CLASS`, `RAM_CLASS`. Safe: the source terminates the process there. -/
  | configFatal (kind : Kind) (romClass ramClass : Nat)
  /-- Code 2 (R232). Raised by an access through a pointer that names no bank: `RD.ERAM`, `WM.ERAM`, `RD.ROMX`, and the
  byte accesses of the two transfers; it records the collection and the pointer. Safe: the source defines no result. -/
  | bankOutOfRange (collection : Collection) (pointer : Nat)
deriving DecidableEq, Repr

/-- Why the machine has no meaning for an operation. -/
inductive Refusal where
  /-- An operation without a meaning yet, by its mnemonic. No arm of `exec` raises it. Safe. -/
  | notModelled (mnemonic : String)
deriving DecidableEq, Repr

/-- What the graphics, sound and clock collaborators or the host may change between two transactions: the elementary
changes of the parameter `ENV` (D4). Log entry 4. -/
inductive EnvEvent where
  | lcdc (v : Byte)
  | stat (v : Byte)
  | vram (bank : BitVec 1) (offset : BitVec 13) (v : Byte)
  | bgPal (i : BitVec 6) (v : Byte)
  | obPal (i : BitVec 6) (v : Byte)
  | bgIdx (i : BitVec 6)
  | obIdx (i : BitVec 6)
  | bgInc (b : Bool)
  | obInc (b : Bool)
  /-- The sound collaborator changes by itself, in the way numbered `n`. -/
  | sound (n : Nat)
  /-- The clock collaborator changes by itself, in the way numbered `n`. -/
  | clock (n : Nat)
  /-- The host's loop advances its cycle counter by `n` (R56). -/
  | cycles (n : Nat)
deriving DecidableEq, Repr

/-- One thing the outside puts to the block. -/
inductive Input where
  /-- The CPU collaborator issues a transaction (R13, R90). -/
  | transaction (w : TWord)
  /-- A change of shared state between two transactions (D4). -/
  | env (e : EnvEvent)
deriving DecidableEq, Repr

/-- The machine's state. The fields up to `fault` are the spec's; `cfg` is its configuration, which no step changes (R29);
`response` and `inputs` are the model's own interface to the collaborator that issues transactions (R14). -/
structure State where
  /-- Launch parameters (R6 to R8). -/
  cfg      : Config
  /-- R21: the bank seen in `[0x4000, 0x8000)`. -/
  romBank  : BitVec 7
  /-- R22: the bank seen in `[0xa000, 0xc000)` while `rtcSel = 0`. -/
  ramBank  : Byte
  /-- R23: false is ROM-upper-bits mode (0), true is RAM-bank mode (1). -/
  bankMode : Bool
  /-- R24: the mapped clock register, 0 for none. -/
  rtcSel   : Byte
  /-- R25: the bank seen in `[0xd000, 0xe000)` while above 1. -/
  wramBank : BitVec 3
  /-- R26: the bank seen in `[0x8000, 0xa000)`. -/
  vramBank : BitVec 1
  /-- R49. -/
  bgIdx    : BitVec 6
  bgInc    : Bool
  obIdx    : BitVec 6
  obInc    : Bool
  /-- `gfx.lcdc`, `gfx.stat` (R57). -/
  lcdc     : Byte
  stat     : Byte
  /-- R51: indexed by the CPU address. -/
  flat     : Memory
  /-- R52 to R55: banked arrays, by linear index. -/
  rom      : Memory
  eram     : Memory
  wram     : Memory
  vram     : Memory
  /-- R48: 64 bytes each. -/
  bgPal    : Memory
  obPal    : Memory
  /-- `snd` (R50) and `rtc` (R47): the calls that changed the collaborator since reset, newest first (log entry 5). -/
  snd      : List SoundCall
  rtc      : List ClockCall
  /-- R56: an unbounded natural number. -/
  cycles   : Nat
  /-- R59: the fault record. -/
  fault    : Option Fault
  /-- R91: the byte the last transaction returned, if it was a read that returned one. -/
  response : Option Byte
  /-- What the outside has put to the block and it has not taken yet, oldest first. -/
  inputs   : List Input
deriving DecidableEq, Repr

/-- The state after reset (R260 to R268). The bank registers and indices are the spec's; the configuration, the memories'
contents, the graphics fields, the collaborators and the cycle counter are launch parameters, set to the reference
configuration's values (log entries 1, 2, 7). -/
def State.reset : State where
  cfg      := .reference
  romBank  := 1
  ramBank  := 0
  bankMode := false
  rtcSel   := 0
  wramBank := 1
  vramBank := 0
  bgIdx    := 0
  bgInc    := false
  obIdx    := 0
  obInc    := false
  lcdc     := 0
  stat     := 0
  flat     := []
  rom      := []
  eram     := []
  wram     := []
  vram     := []
  bgPal    := []
  obPal    := []
  snd      := []
  rtc      := []
  cycles   := 0
  fault    := none
  response := none
  inputs   := []

end Sys2Proof.Machine
end

