-- ==== Sys2Proof/Machine/Flags.lean ====
section
/-! DEFINITION. The block's one-bit flags (spec R31): the MBC1 bank-mode flag and the two palette auto-increment flags.
It has no condition codes. -/
namespace Sys2Proof.Machine

/-- The bank-mode flag a mode-select byte stores: exactly 0 or 1, any other byte stores none (R98, R150). -/
def modeFlag (v : Byte) : Option Bool :=
  if v == 0x00 then some false else if v == 0x01 then some true else none

/-- The auto-increment flag of an index-port byte: bit 7 (R101, R203). -/
def incFlag (v : Byte) : Bool := v.getLsbD 7

/-- The palette index after a data write: one further, modulo 64, while the increment flag is set (R107 d, R204). -/
def nextIndex (inc : Bool) (i : BitVec 6) : BitVec 6 := if inc then i + 1 else i

end Sys2Proof.Machine
end

