-- ==== Sys2Proof/Machine/Operands.lean ====
section
/-! DEFINITION. Every operand form of the block: the fields taken from a data byte (spec 30_encoding.md R94 to R101), the
size-class limits (R153), the two transfers' addresses and length (R99, R100, R107), and the linear index of a banked
cell (R67). -/
namespace Sys2Proof.Machine

/-! ## Cartridge commands -/

/-- The candidate pointer of an MBC1 ROM-bank select (R94, R143): the zero test is on the whole byte, then the low five
bits replace those of the pointer. -/
def mbc1RomCandidate (romBank : BitVec 7) (v : Byte) : BitVec 7 :=
  let d : Byte := if v == 0 then 1 else v
  (romBank &&& 0x60) ||| (d &&& 0x1f).setWidth 7

/-- The candidate pointer of an MBC3 ROM-bank select (R95, R144): masked, then 0 is replaced by 1. -/
def mbc3RomCandidate (v : Byte) : BitVec 7 :=
  let m : BitVec 7 := v.extractLsb' 0 7
  if m == 0 then 1 else m

/-- The candidate pointer of an MBC1 secondary command in mode 0 (R96, R145): two bits become the pointer's high bits. -/
def mbc1HighCandidate (romBank : BitVec 7) (v : Byte) : BitVec 7 :=
  ((v &&& 0x03).setWidth 7 <<< 5) ||| (romBank &&& 0x1f)

/-- `LIMIT(ROM_CLASS)` (R153); none for a class that is not recognised (R6). -/
def romLimit : Nat → Option Nat
  | 0 => some 1
  | 1 => some 4
  | 2 => some 8
  | 3 => some 16
  | 4 => some 32
  | 5 => some 64
  | 6 => some 128
  | _ => none

/-! ## Register operands -/

/-- The palette index of an index-port byte (R101, R203). -/
def paletteIndex (v : Byte) : BitVec 6 := v.extractLsb' 0 6

/-- The video-RAM bank of an `A_VBK` byte: its low bit (R101, R209). -/
def vramBankOf (v : Byte) : BitVec 1 := v.extractLsb' 0 1

/-- The working-RAM bank of an `A_SVBK` byte: its low three bits, 0 replaced by 1 after the mask (R101, R210). -/
def wramBankOf (v : Byte) : BitVec 3 :=
  let b : BitVec 3 := v.extractLsb' 0 3
  if b == 0 then 1 else b

/-! ## Transfers -/

/-- Object-memory DMA source: the written byte is the high byte (R99). -/
def oamSource (v : Byte) : Addr := v ++ 0#8

/-- Video-DMA source: two register bytes, the low nibble forced to 0 (R100, R185). -/
def videoSource (h1 h2 : Byte) : Addr := h1 ++ (h2 &&& 0xf0)

/-- Video-DMA destination: two register bytes, the top three bits forced to 100 (R100, R186). -/
def videoDest (h3 h4 : Byte) : Addr := ((h3 &&& 0x1f) ||| 0x80) ++ h4

/-- Video-DMA length in bytes, 16 to 2048 (R100, R187). -/
def videoLength (c : Byte) : Nat := ((c &&& 0x7f).toNat + 1) * 16

/-! ## Linear indices of banked cells (R67), for an address of the bank's window -/

/-- The index of a cell of `[0x4000, 0x8000)` in `rom`. -/
def romIndex (bank : BitVec 7) (a : Addr) : Nat := bank.toNat * 0x4000 + (a.toNat - 0x4000)

/-- The index of a cell of `[0x8000, 0xa000)` in `vram`. -/
def vramIndex (bank : BitVec 1) (a : Addr) : Nat := bank.toNat * 0x2000 + (a.toNat - 0x8000)

/-- The index of a cell of `[0xa000, 0xc000)` in `eram`. -/
def eramIndex (bank : Byte) (a : Addr) : Nat := bank.toNat * 0x2000 + (a.toNat - 0xa000)

/-- The index of a cell of `[0xd000, 0xe000)` in `wram`. -/
def wramIndex (bank : BitVec 3) (a : Addr) : Nat := bank.toNat * 0x1000 + (a.toNat - 0xd000)

end Sys2Proof.Machine
end

