-- ==== Sys2Proof/Machine/Ops.lean ====
section
/-! DEFINITION. The shared operations of the machine: memory, the mode, the collaborators, how a transaction ends, raising
a fault, the cells of each region, and the byte read and byte store that a transfer is made of. -/
namespace Sys2Proof.Machine

/-! ## Memory -/

namespace Memory

/-- What a key that is not listed reads as. DESIGN CHOICE (log entry 2): the spec's launch parameters `INIT_*` are open; its
reference configuration has every RAM cell zero. -/
def unlisted : Byte := 0

/-- The byte at a key. -/
def read (m : Memory) (k : Nat) : Byte :=
  match m with
  | [] => unlisted
  | (j, b) :: rest => if j = k then b else read rest k

/-- The list without the cells at a key. -/
def erase (k : Nat) (m : Memory) : Memory :=
  match m with
  | [] => []
  | (j, b) :: rest => if j = k then erase k rest else (j, b) :: erase k rest

/-- The list with a cell put before the first larger key. -/
def insert (k : Nat) (v : Byte) (m : Memory) : Memory :=
  match m with
  | [] => [(k, v)]
  | (j, b) :: rest => if k < j then (k, v) :: (j, b) :: rest else (j, b) :: insert k v rest

/-- A write keeps the canonical form: a byte that an unlisted key reads as is not listed. -/
def write (m : Memory) (k : Nat) (v : Byte) : Memory :=
  if v = unlisted then erase k m else insert k v (erase k m)

/-- Keys rise strictly from `lo` up and stay below `size`, and no listed cell holds what an unlisted key reads as. -/
def wfFrom (size lo : Nat) (m : Memory) : Bool :=
  match m with
  | [] => true
  | (j, b) :: rest => decide (lo ≤ j) && decide (j < size) && decide (b ≠ unlisted) && wfFrom size (j + 1) rest

/-- The canonical form of an array of `size` cells. -/
def wf (size : Nat) (m : Memory) : Bool := wfFrom size 0 m

end Memory

/-! ## The mode (R105) -/

/-- The mode a transaction is decoded in. -/
def State.mode (s : State) : Mode where
  kind     := s.cfg.kind
  bankMode := s.bankMode
  rtcSel   := s.rtcSel
  wramBank := s.wramBank
  regs     := s.cfg.regs

/-! ## How a transaction ends (R12, R91) -/

/-- A read that returned a byte. -/
def State.respond (s : State) (b : Byte) : State := { s with response := some b }

/-- A write: it returns nothing. -/
def State.complete (s : State) : State := { s with response := none }

/-- RAISING A FAULT, the block's one exception (R238): no state is saved, no vector is fetched and no handler runs. The record
is set, the transaction returns nothing, and no later transaction has a step. There is no return from it (R239). -/
def State.raise (s : State) (f : Fault) : State := { s with fault := some f, response := none }

/-- The code of a fault (R230, R232). -/
def Fault.code : Fault → Nat
  | .configFatal _ _ _ => 1
  | .bankOutOfRange _ _ => 2

/-- A read ends with a byte or raises. -/
def answer (s : State) (r : Except Fault Byte) : Host.Outcome State Fault Refusal :=
  match r with
  | .ok b => .next (s.respond b)
  | .error f => .next (s.raise f)

/-- A write ends in a state or raises with the state it had (R238: nothing else has changed). -/
def finish (s : State) (r : Except Fault State) : Host.Outcome State Fault Refusal :=
  match r with
  | .ok t => .next t.complete
  | .error f => .next (s.raise f)

/-! ## Storage -/

def State.putFlat (s : State) (a : Addr) (v : Byte) : State := { s with flat := Memory.write s.flat a.toNat v }

def State.putVram (s : State) (k : Nat) (v : Byte) : State := { s with vram := Memory.write s.vram k v }

def State.putEram (s : State) (k : Nat) (v : Byte) : State := { s with eram := Memory.write s.eram k v }

def State.putWram (s : State) (k : Nat) (v : Byte) : State := { s with wram := Memory.write s.wram k v }

/-! ## The collaborators (R18): a call changes only the collaborator's own state -/

def State.callSound (s : State) (c : SoundCall) : State := { s with snd := c :: s.snd }

def State.callClock (s : State) (c : ClockCall) : State := { s with rtc := c :: s.rtc }

/-! ## The cells of the regions: what a read returns (R111 to R121) -/

/-- R111. -/
def romCell (s : State) (a : Addr) : Except Fault Byte :=
  if s.romBank.toNat < s.cfg.nRomBanks then .ok (Memory.read s.rom (romIndex s.romBank a))
  else .error (.bankOutOfRange .rom s.romBank.toNat)

/-- R112. -/
def vramCell (s : State) (a : Addr) : Byte := Memory.read s.vram (vramIndex s.vramBank a)

/-- R113. -/
def eramCell (s : State) (a : Addr) : Except Fault Byte :=
  if s.ramBank.toNat < s.cfg.nEramBanks then .ok (Memory.read s.eram (eramIndex s.ramBank a))
  else .error (.bankOutOfRange .eram s.ramBank.toNat)

/-- R114, R170: the address inside the window is not handed over. -/
def clockCell (s : State) : Byte := Config.clockRead s.rtc s.rtcSel

/-- R115. -/
def wramCell (s : State) (a : Addr) : Byte := Memory.read s.wram (wramIndex s.wramBank a)

/-- R116: the address is passed unchanged. -/
def soundCell (s : State) (a : Addr) : Byte := Config.soundRead s.snd a

/-- R119. -/
def bgCell (s : State) : Byte := Memory.read s.bgPal s.bgIdx.toNat

/-- R120. -/
def obCell (s : State) : Byte := Memory.read s.obPal s.obIdx.toNat

/-- R121. -/
def flatCell (s : State) (a : Addr) : Byte := Memory.read s.flat a.toNat

/-- `Read(addr)` as a byte or a fault (R110); it changes nothing (R123). -/
def readByte (s : State) (a : Addr) : Except Fault Byte :=
  match regionR s.mode a with
  | .romx => romCell s a
  | .vram => .ok (vramCell s a)
  | .rtc => .ok (clockCell s)
  | .eram => eramCell s a
  | .wramx => .ok (wramCell s a)
  | .snd => .ok (soundCell s a)
  | .lcdc => .ok s.lcdc
  | .stat => .ok s.stat
  | .bgpd => .ok (bgCell s)
  | .obpd => .ok (obCell s)
  | .flat => .ok (flatCell s a)

/-! ## The stores of the regions (R126 to R130) -/

/-- R126. -/
def storeVram (s : State) (a : Addr) (v : Byte) : State := s.putVram (vramIndex s.vramBank a) v

/-- R127. -/
def storeEram (s : State) (a : Addr) (v : Byte) : Except Fault State :=
  if s.ramBank.toNat < s.cfg.nEramBanks then .ok (s.putEram (eramIndex s.ramBank a) v)
  else .error (.bankOutOfRange .eram s.ramBank.toNat)

/-- R128: the clock's state only. -/
def storeClock (s : State) (v : Byte) : State := s.callClock (.write s.rtcSel v)

/-- R129. -/
def storeWram (s : State) (a : Addr) (v : Byte) : State := s.putWram (wramIndex s.wramBank a) v

/-- The store of phase (b) of `Write(addr, v)` (R124), as a transfer makes it. A transfer's destinations have no dispatcher
row and are never commands (R191, R214), so this is the whole of its `Write`; below 0x8000 nothing is stored (R125). -/
def storeByte (s : State) (a : Addr) (v : Byte) : Except Fault State :=
  match regionW s.mode a with
  | .cart => .ok s
  | .vram => .ok (storeVram s a v)
  | .rtc => .ok (storeClock s v)
  | .eram => storeEram s a v
  | .wramx => .ok (storeWram s a v)
  | .flat => .ok (s.putFlat a v)

/-! ## The environment (D4) and the fetch -/

/-- One change of shared state between two transactions. -/
def State.applyEnv (s : State) : EnvEvent → State
  | .lcdc v => { s with lcdc := v }
  | .stat v => { s with stat := v }
  | .vram b o v => s.putVram (b.toNat * 0x2000 + o.toNat) v
  | .bgPal i v => { s with bgPal := Memory.write s.bgPal i.toNat v }
  | .obPal i v => { s with obPal := Memory.write s.obPal i.toNat v }
  | .bgIdx i => { s with bgIdx := i }
  | .obIdx i => { s with obIdx := i }
  | .bgInc b => { s with bgInc := b }
  | .obInc b => { s with obInc := b }
  | .sound n => s.callSound (.drift n)
  | .clock n => s.callClock (.drift n)
  | .cycles n => { s with cycles := s.cycles + n }

/-- The state with other inputs waiting. -/
def State.setInputs (s : State) (l : List Input) : State := { s with inputs := l }

/-- The oldest input, and the state with it taken. The block fetches nothing itself (R30): the CPU collaborator issues its
transactions one at a time (R13). -/
def State.takeInput (s : State) : Option (Input × State) :=
  match s.inputs with
  | [] => none
  | i :: rest => some (i, s.setInputs rest)

end Sys2Proof.Machine
end

