-- ==== Sys2Proof/Machine/Cartridge.lean ====
section
/-! DEFINITION. The cartridge controller (spec 41_cartridge_controller.md): the validated bank switch and one meaning per
command. No command stores its byte as data (R125). -/
namespace Sys2Proof.Machine

/-- `BankSwitch(candidate)` (R152): the class check first, class 0 never switches, a candidate at or above the limit is
dropped and the pointer retained. -/
def bankSwitch (s : State) (c : BitVec 7) : Except Fault State :=
  match romLimit s.cfg.romClass with
  | none => .error (.configFatal s.cfg.kind s.cfg.romClass s.cfg.ramClass)
  | some limit =>
    if s.cfg.romClass = 0 then .ok s
    else if c.toNat < limit then .ok { s with romBank := c }
    else .ok s

/-- `WC.NOP.LOW` (R141): nothing, for every `KIND`. -/
def execWcNopLow (_a : Addr) (_v : Byte) (s : State) : Host.Outcome State Fault Refusal := finish s (.ok s)

/-- `WC.NOP.KIND` (R142): nothing. -/
def execWcNopKind (_a : Addr) (_v : Byte) (s : State) : Host.Outcome State Fault Refusal := finish s (.ok s)

/-- `WC.MBC1.ROMB` (R143). -/
def execWcMbc1Romb (_a : Addr) (v : Byte) (s : State) : Host.Outcome State Fault Refusal :=
  finish s (bankSwitch s (mbc1RomCandidate s.romBank v))

/-- `WC.MBC3.ROMB` (R144). -/
def execWcMbc3Romb (_a : Addr) (v : Byte) (s : State) : Host.Outcome State Fault Refusal :=
  finish s (bankSwitch s (mbc3RomCandidate v))

/-- `WC.MBC1.ROMHI` (R145). -/
def execWcMbc1Romhi (_a : Addr) (v : Byte) (s : State) : Host.Outcome State Fault Refusal :=
  finish s (bankSwitch s (mbc1HighCandidate s.romBank v))

/-- `WC.MBC1.RAMB` (R146): the whole byte, not validated. -/
def execWcMbc1Ramb (_a : Addr) (v : Byte) (s : State) : Host.Outcome State Fault Refusal := finish s (.ok { s with ramBank := v })

/-- `WC.MBC3.RAMB` (R147): the clock is unmapped. -/
def execWcMbc3Ramb (_a : Addr) (v : Byte) (s : State) : Host.Outcome State Fault Refusal :=
  finish s (.ok { s with rtcSel := 0, ramBank := v })

/-- `WC.MBC3.RTCSEL` (R148): the selector is the written byte. -/
def execWcMbc3Rtcsel (_a : Addr) (v : Byte) (s : State) : Host.Outcome State Fault Refusal := finish s (.ok { s with rtcSel := v })

/-- `WC.MBC3.SECIGN` (R149): nothing. -/
def execWcMbc3Secign (_a : Addr) (_v : Byte) (s : State) : Host.Outcome State Fault Refusal := finish s (.ok s)

/-- `WC.MBC1.MODE` (R150): a byte other than 0 and 1 is ignored; the mode re-maps nothing. -/
def execWcMbc1Mode (_a : Addr) (v : Byte) (s : State) : Host.Outcome State Fault Refusal :=
  match modeFlag v with
  | some b => finish s (.ok { s with bankMode := b })
  | none => finish s (.ok s)

/-- `WC.MBC3.LATCH` (R151): each byte 1 forwards one trigger, whether or not a clock register is mapped (R175). -/
def execWcMbc3Latch (_a : Addr) (v : Byte) (s : State) : Host.Outcome State Fault Refusal :=
  finish s (.ok (if v == 0x01 then s.callClock .latch else s))

end Sys2Proof.Machine
end

