-- ==== Sys2Proof/Machine/Dma.lean ====
section
/-! DEFINITION. The transfers (spec 43_dma_hdma.md): both run whole inside the write that triggers them (R180), one byte
read and one byte store at a time, in ascending order. -/
namespace Sys2Proof.Machine

/-- `n` byte copies (R181, R188). Addresses advance modulo 0x10000 (R107 b). A fault ends the transfer at that byte: the bytes
copied so far stay copied (R193). -/
def copyBytes (n : Nat) (src dst : Addr) (s : State) : Except (Fault × State) State :=
  match n with
  | 0 => .ok s
  | n + 1 =>
    match readByte s src with
    | .error f => .error (f, s)
    | .ok b =>
      match storeByte s dst b with
      | .error f => .error (f, s)
      | .ok t => copyBytes n (src + 1) (dst + 1) t

/-- What a completed object-memory DMA costs the host (R183). -/
def oamCycles : Nat := 150

/-- `OamDma(v)` (R181), begun after the triggering byte is stored. -/
def oamDma (v : Byte) (s : State) : Except (Fault × State) State :=
  match copyBytes oamLength (oamSource v) s.cfg.regs.oam s with
  | .error e => .error e
  | .ok t => .ok { t with cycles := t.cycles + oamCycles }

/-- `VideoDma(c)` (R184), begun after the triggering byte is stored: addresses assembled from the flat cells, the whole copy in
either mode (R190), then the completion sentinel as a raw store (R189). -/
def videoDma (c : Byte) (s : State) : Except (Fault × State) State :=
  let r := s.cfg.regs
  let src := videoSource (flatCell s r.hdma1) (flatCell s r.hdma2)
  let dst := videoDest (flatCell s r.hdma3) (flatCell s r.hdma4)
  match copyBytes (videoLength c) src dst s with
  | .error e => .error e
  | .ok t => .ok (t.putFlat r.hdma5 0xff)

/-- A transfer ends in a state, or raises with the bytes copied so far in place (R193, R238). -/
def finishTransfer (r : Except (Fault × State) State) : Host.Outcome State Fault Refusal :=
  match r with
  | .ok t => .next t.complete
  | .error (f, t) => .next (t.raise f)

/-- `WM.DMA` (R211): every byte triggers, in colour mode and out of it. -/
def execWmDma (v : Byte) (s : State) : Host.Outcome State Fault Refusal :=
  finishTransfer (oamDma v (s.putFlat s.cfg.regs.dma v))

/-- `WM.HDMA5` (R212): the transfer runs in colour mode only (R194). -/
def execWmHdma5 (v : Byte) (s : State) : Host.Outcome State Fault Refusal :=
  let t := s.putFlat s.cfg.regs.hdma5 v
  if s.cfg.color then finishTransfer (videoDma v t) else finish s (.ok t)

end Sys2Proof.Machine
end

