-- ==== Sys2Proof/Machine/IoRegisters.lean ====
section
/-! DEFINITION. The dispatcher's rows other than the transfers (spec 44_io_dispatcher.md): the byte is stored in `flat`
first (R131), then the row's side effect. -/
namespace Sys2Proof.Machine

/-- `WM.LCDC` (R201): mirrored whole. -/
def execWmLcdc (v : Byte) (s : State) : Host.Outcome State Fault Refusal :=
  finish s (.ok { s.putFlat s.cfg.regs.lcdc v with lcdc := v })

/-- `WM.STAT` (R202). -/
def execWmStat (v : Byte) (s : State) : Host.Outcome State Fault Refusal :=
  finish s (.ok { s.putFlat s.cfg.regs.stat v with stat := v })

/-- `WM.BGPI` (R203). -/
def execWmBgpi (v : Byte) (s : State) : Host.Outcome State Fault Refusal :=
  finish s (.ok { s.putFlat s.cfg.regs.bgpi v with bgIdx := paletteIndex v, bgInc := incFlag v })

/-- `WM.BGPD` (R204). -/
def execWmBgpd (v : Byte) (s : State) : Host.Outcome State Fault Refusal :=
  finish s (.ok { s.putFlat s.cfg.regs.bgpd v with
    bgPal := Memory.write s.bgPal s.bgIdx.toNat v, bgIdx := nextIndex s.bgInc s.bgIdx })

/-- `WM.OBPI` (R205). -/
def execWmObpi (v : Byte) (s : State) : Host.Outcome State Fault Refusal :=
  finish s (.ok { s.putFlat s.cfg.regs.obpi v with obIdx := paletteIndex v, obInc := incFlag v })

/-- `WM.OBPD` (R206). -/
def execWmObpd (v : Byte) (s : State) : Host.Outcome State Fault Refusal :=
  finish s (.ok { s.putFlat s.cfg.regs.obpd v with
    obPal := Memory.write s.obPal s.obIdx.toNat v, obIdx := nextIndex s.obInc s.obIdx })

/-- `WM.SND.REG` (R207): forwarded verbatim. -/
def execWmSndReg (a : Addr) (v : Byte) (s : State) : Host.Outcome State Fault Refusal :=
  finish s (.ok ((s.putFlat a v).callSound (.write a v)))

/-- `WM.SND.WAVE` (R208). -/
def execWmSndWave (a : Addr) (v : Byte) (s : State) : Host.Outcome State Fault Refusal :=
  finish s (.ok ((s.putFlat a v).callSound (.writeWave a v)))

/-- `WM.VBK` (R209, R215): the pointer moves in colour mode only. -/
def execWmVbk (v : Byte) (s : State) : Host.Outcome State Fault Refusal :=
  let t := s.putFlat s.cfg.regs.vbk v
  finish s (.ok (if s.cfg.color then { t with vramBank := vramBankOf v } else t))

/-- `WM.SVBK` (R210, R215). -/
def execWmSvbk (v : Byte) (s : State) : Host.Outcome State Fault Refusal :=
  let t := s.putFlat s.cfg.regs.svbk v
  finish s (.ok (if s.cfg.color then { t with wramBank := wramBankOf v } else t))

end Sys2Proof.Machine
end

