-- ==== Sys2Proof/Machine/Reads.lean ====
section
/-! DEFINITION. The read operations (spec 40_address_decoder.md section 1): each returns a byte and changes nothing (R123). -/
namespace Sys2Proof.Machine

/-- `RD.ROMX` (R111). -/
def execRdRomx (a : Addr) (s : State) : Host.Outcome State Fault Refusal := answer s (romCell s a)

/-- `RD.VRAM` (R112). -/
def execRdVram (a : Addr) (s : State) : Host.Outcome State Fault Refusal := answer s (.ok (vramCell s a))

/-- `RD.ERAM` (R113). -/
def execRdEram (a : Addr) (s : State) : Host.Outcome State Fault Refusal := answer s (eramCell s a)

/-- `RD.RTC` (R114). The address selects nothing inside the window. -/
def execRdRtc (_a : Addr) (s : State) : Host.Outcome State Fault Refusal := answer s (.ok (clockCell s))

/-- `RD.WRAMX` (R115). -/
def execRdWramx (a : Addr) (s : State) : Host.Outcome State Fault Refusal := answer s (.ok (wramCell s a))

/-- `RD.SND` (R116). -/
def execRdSnd (a : Addr) (s : State) : Host.Outcome State Fault Refusal := answer s (.ok (soundCell s a))

/-- `RD.LCDC` (R117): the field, not the flat cell. -/
def execRdLcdc (s : State) : Host.Outcome State Fault Refusal := answer s (.ok s.lcdc)

/-- `RD.STAT` (R118). -/
def execRdStat (s : State) : Host.Outcome State Fault Refusal := answer s (.ok s.stat)

/-- `RD.BGPD` (R119). -/
def execRdBgpd (s : State) : Host.Outcome State Fault Refusal := answer s (.ok (bgCell s))

/-- `RD.OBPD` (R120). -/
def execRdObpd (s : State) : Host.Outcome State Fault Refusal := answer s (.ok (obCell s))

/-- `RD.FLAT` (R121). -/
def execRdFlat (a : Addr) (s : State) : Host.Outcome State Fault Refusal := answer s (.ok (flatCell s a))

end Sys2Proof.Machine
end

