-- ==== Sys2Proof/Machine/Stores.lean ====
section
/-! DEFINITION. The write operations that are a store and nothing more (spec 40_address_decoder.md section 2, R213). -/
namespace Sys2Proof.Machine

/-- `WM.VRAM` (R126). -/
def execWmVram (a : Addr) (v : Byte) (s : State) : Host.Outcome State Fault Refusal := finish s (.ok (storeVram s a v))

/-- `WM.ERAM` (R127). -/
def execWmEram (a : Addr) (v : Byte) (s : State) : Host.Outcome State Fault Refusal := finish s (storeEram s a v)

/-- `WM.RTC` (R128). -/
def execWmRtc (_a : Addr) (v : Byte) (s : State) : Host.Outcome State Fault Refusal := finish s (.ok (storeClock s v))

/-- `WM.WRAMX` (R129). -/
def execWmWramx (a : Addr) (v : Byte) (s : State) : Host.Outcome State Fault Refusal := finish s (.ok (storeWram s a v))

/-- `WM.FLAT` (R130). -/
def execWmFlat (a : Addr) (v : Byte) (s : State) : Host.Outcome State Fault Refusal := finish s (.ok (s.putFlat a v))

/-- `WM.HDMA1` (R213). -/
def execWmHdma1 (v : Byte) (s : State) : Host.Outcome State Fault Refusal := finish s (.ok (s.putFlat s.cfg.regs.hdma1 v))

/-- `WM.HDMA2` (R213). -/
def execWmHdma2 (v : Byte) (s : State) : Host.Outcome State Fault Refusal := finish s (.ok (s.putFlat s.cfg.regs.hdma2 v))

/-- `WM.HDMA3` (R213). -/
def execWmHdma3 (v : Byte) (s : State) : Host.Outcome State Fault Refusal := finish s (.ok (s.putFlat s.cfg.regs.hdma3 v))

/-- `WM.HDMA4` (R213). -/
def execWmHdma4 (v : Byte) (s : State) : Host.Outcome State Fault Refusal := finish s (.ok (s.putFlat s.cfg.regs.hdma4 v))

end Sys2Proof.Machine
end

