-- ==== Sys2Proof/Machine/Dispatch.lean ====
section
/-! DEFINITION. One arm per operation of spec R102, each a direct call of its meaning. -/
namespace Sys2Proof.Machine

def exec (i : Instr) (s : State) : Host.Outcome State Fault Refusal :=
  match i with
  | .rdRomx addr => Sys2Proof.Machine.execRdRomx addr s
  | .rdVram addr => Sys2Proof.Machine.execRdVram addr s
  | .rdEram addr => Sys2Proof.Machine.execRdEram addr s
  | .rdRtc addr => Sys2Proof.Machine.execRdRtc addr s
  | .rdWramx addr => Sys2Proof.Machine.execRdWramx addr s
  | .rdSnd addr => Sys2Proof.Machine.execRdSnd addr s
  | .rdLcdc => Sys2Proof.Machine.execRdLcdc s
  | .rdStat => Sys2Proof.Machine.execRdStat s
  | .rdBgpd => Sys2Proof.Machine.execRdBgpd s
  | .rdObpd => Sys2Proof.Machine.execRdObpd s
  | .rdFlat addr => Sys2Proof.Machine.execRdFlat addr s
  | .wcNopLow addr v => Sys2Proof.Machine.execWcNopLow addr v s
  | .wcNopKind addr v => Sys2Proof.Machine.execWcNopKind addr v s
  | .wcMbc1Romb addr v => Sys2Proof.Machine.execWcMbc1Romb addr v s
  | .wcMbc3Romb addr v => Sys2Proof.Machine.execWcMbc3Romb addr v s
  | .wcMbc1Romhi addr v => Sys2Proof.Machine.execWcMbc1Romhi addr v s
  | .wcMbc1Ramb addr v => Sys2Proof.Machine.execWcMbc1Ramb addr v s
  | .wcMbc3Ramb addr v => Sys2Proof.Machine.execWcMbc3Ramb addr v s
  | .wcMbc3Rtcsel addr v => Sys2Proof.Machine.execWcMbc3Rtcsel addr v s
  | .wcMbc3Secign addr v => Sys2Proof.Machine.execWcMbc3Secign addr v s
  | .wcMbc1Mode addr v => Sys2Proof.Machine.execWcMbc1Mode addr v s
  | .wcMbc3Latch addr v => Sys2Proof.Machine.execWcMbc3Latch addr v s
  | .wmVram addr v => Sys2Proof.Machine.execWmVram addr v s
  | .wmEram addr v => Sys2Proof.Machine.execWmEram addr v s
  | .wmRtc addr v => Sys2Proof.Machine.execWmRtc addr v s
  | .wmWramx addr v => Sys2Proof.Machine.execWmWramx addr v s
  | .wmSndReg addr v => Sys2Proof.Machine.execWmSndReg addr v s
  | .wmSndWave addr v => Sys2Proof.Machine.execWmSndWave addr v s
  | .wmLcdc v => Sys2Proof.Machine.execWmLcdc v s
  | .wmStat v => Sys2Proof.Machine.execWmStat v s
  | .wmBgpi v => Sys2Proof.Machine.execWmBgpi v s
  | .wmBgpd v => Sys2Proof.Machine.execWmBgpd v s
  | .wmObpi v => Sys2Proof.Machine.execWmObpi v s
  | .wmObpd v => Sys2Proof.Machine.execWmObpd v s
  | .wmVbk v => Sys2Proof.Machine.execWmVbk v s
  | .wmSvbk v => Sys2Proof.Machine.execWmSvbk v s
  | .wmDma v => Sys2Proof.Machine.execWmDma v s
  | .wmHdma1 v => Sys2Proof.Machine.execWmHdma1 v s
  | .wmHdma2 v => Sys2Proof.Machine.execWmHdma2 v s
  | .wmHdma3 v => Sys2Proof.Machine.execWmHdma3 v s
  | .wmHdma4 v => Sys2Proof.Machine.execWmHdma4 v s
  | .wmHdma5 v => Sys2Proof.Machine.execWmHdma5 v s
  | .wmFlat addr v => Sys2Proof.Machine.execWmFlat addr v s

end Sys2Proof.Machine
end

