-- ==== Sys2Proof/Machine/Step.lean ====
section
/-! DEFINITION. One step: the oldest input is taken and performed whole (spec R13, R73). A machine with a fault on record has
no step (R59); one with nothing put to it stays as it is. -/
namespace Sys2Proof.Machine

/-- One step of the block. -/
def step (s : State) : Host.Outcome State Fault Refusal :=
  match s.fault with
  | some f => .fault f
  | none =>
    match s.takeInput with
    | none => .next s
    | some (.transaction w, t) => exec (decode t.mode w) t
    | some (.env e, t) => .next (t.applyEnv e)

/-- The state with a transaction put before what the outside has put to the block already, so that the very next step performs
it. A transaction has 25 bits (R90); `nbits` is not needed. -/
def State.withFetchWord (s : State) (_nbits w : Nat) : State :=
  s.setInputs (.transaction (BitVec.ofNat 25 w) :: s.inputs)

end Sys2Proof.Machine
end

