-- ==== Sys2Proof/Safety.lean ====
section
/-! DEFINITION. What counts as a well-formed configuration, a legal state and a safe run (spec R7, R8, R28, R270). -/
namespace Sys2Proof

/-- A well-formed configuration (R7, R8): the register map meets R8, every ROM pointer the rules can produce names a bank, and
there are at most 256 external-RAM banks. An unrecognised ROM class is not excluded: it is the fatal error of R230. -/
def Config.wf (c : Config) : Bool :=
  c.regs.wf && decide (2 ≤ c.nRomBanks) && decide ((Machine.romLimit c.romClass).getD 0 ≤ c.nRomBanks) && decide (c.nEramBanks ≤ 256)

/-- The ROM class is recognised whenever a controller can attempt a bank switch (R270 a). -/
def Config.romClassKnown (c : Config) : Bool := c.kind.isPlain || (Machine.romLimit c.romClass).isSome

end Sys2Proof

namespace Sys2Proof.Machine

/-- The pointer invariants of R28, and R23 for the bank-mode flag. Bounds that R28 (a) and (h) put on `romBank`, `bgIdx` and
`obIdx` hold by their types. -/
structure State.PointersLegal (s : State) : Prop where
  /-- R28 (b). -/
  romBound    : s.romBank = 1 ∨ s.romBank.toNat < (romLimit s.cfg.romClass).getD 0
  /-- R28 (c). -/
  romMbc3     : s.cfg.kind = .mbc3 → 1 ≤ s.romBank.toNat
  /-- R28 (d). -/
  romFixed    : s.cfg.romClass = 0 ∨ s.cfg.kind = .noController ∨ s.cfg.kind = .other → s.romBank = 1
  /-- R28 (e). -/
  rtcRange    : s.rtcSel = 0 ∨ (8 ≤ s.rtcSel.toNat ∧ s.rtcSel.toNat ≤ 12)
  rtcMbc3     : s.cfg.kind ≠ .mbc3 → s.rtcSel = 0
  /-- R28 (f). -/
  ramMbc3     : s.cfg.kind = .mbc3 → s.ramBank.toNat ≤ 7
  ramFixed    : s.cfg.kind = .noController ∨ s.cfg.kind = .other → s.ramBank = 0
  /-- R28 (g). -/
  wramRange   : 1 ≤ s.wramBank.toNat
  plainBanks  : s.cfg.color = false → s.wramBank = 1 ∧ s.vramBank = 0
  /-- R23: never written for another kind than MBC1. -/
  modeMbc1    : s.cfg.kind ≠ .mbc1 → s.bankMode = false

/-- Every memory is in its canonical form and within its array (R48, R51 to R55). -/
structure State.MemoriesLegal (s : State) : Prop where
  flat  : Memory.wf 0x10000 s.flat = true
  rom   : Memory.wf (s.cfg.nRomBanks * 0x4000) s.rom = true
  eram  : Memory.wf (s.cfg.nEramBanks * 0x2000) s.eram = true
  wram  : Memory.wf 0x8000 s.wram = true
  vram  : Memory.wf 0x4000 s.vram = true
  bgPal : Memory.wf 64 s.bgPal = true
  obPal : Memory.wf 64 s.obPal = true

/-- The invariant of the machine: what holds in every state that a run from a well-formed start reaches. -/
structure State.Legal (s : State) : Prop where
  cfg      : s.cfg.wf = true
  pointers : s.PointersLegal
  memories : s.MemoriesLegal

/-- THE LAUNCH PREMISE of R266 (decision D40): the flat cells that the CPU reads below 0x4000 hold ROM bank 0, into which the cartridge
loader copied it. A named premise and not a fact: neither `State.Legal` nor any meaning asks for it, and a claim about a
program that reads below 0x4000 takes it as a hypothesis on its launch state (log entry 26). -/
def State.FixedBankLoaded (s : State) : Prop := ∀ a, a < 0x4000 → Memory.read s.flat a = Memory.read s.rom a

/-- A state that can be the final state of a run: no fault is on record (R12) and nothing waits to be taken. -/
def State.final (s : State) : Bool := s.fault.isNone && s.inputs.isEmpty

/-- The external-RAM window can be accessed: the clock is mapped, or the pointer names a bank (R113, R114). -/
def State.eramWindowOpen (s : State) : Bool := s.rtcSel != 0 || decide (s.ramBank.toNat < s.cfg.nEramBanks)

end Sys2Proof.Machine
end

