-- ==== Sys2Proof/Certificates/Slice0/Obligations.lean ====
section
/-! DEFINITION. The statements for the provers. Each is about every state, hence every configuration, every memory content and
every collaborator, unless its hypotheses say otherwise. Rules R<n>, decisions D<n> and notes are those of spec/. -/

namespace Sys2Proof.Claims
open Sys2Proof.Machine

/-- Every word of a row's pattern decodes to the row's operation. -/
def selects (m : Mode) (mtch mask : TWord) (i : Addr → Byte → Instr) : Prop :=
  ∀ w : TWord, (w &&& mask) = mtch → decode m w = i w.addr w.data

/-- A transaction is the next thing the block takes, and no fault is on record. -/
def issued (s : State) (w : TWord) (rest : List Input) : Prop := s.fault = none ∧ s.inputs = .transaction w :: rest

/-- One memory is another with one byte stored: every other key reads as before. -/
def stored (before after : Memory) (k : Nat) (v : Byte) : Prop :=
  ∀ j, Memory.read after j = if j = k then v else Memory.read before j

/-- The list of R153, class 0 first. -/
def limits : List Nat := [1, 4, 8, 16, 32, 64, 128]

/-- What `BankSwitch` (R152) makes of a candidate number: the fatal error for a class the list lacks; otherwise the candidate
when the class is not 0 and the candidate is below the limit, and the previous pointer when not. Nothing else changes. -/
def switches (s : State) (candidate : Nat) (o : Host.Outcome State Fault Refusal) : Prop :=
  match limits[s.cfg.romClass]? with
  | none => o = .next { s with fault := some (.configFatal s.cfg.kind s.cfg.romClass s.cfg.ramClass), response := none }
  | some limit =>
    ∃ t, o = .next t ∧ t = { s with romBank := t.romBank, response := none } ∧
      t.romBank.toNat = if s.cfg.romClass ≠ 0 ∧ candidate < limit then candidate else s.romBank.toNat

/-- A bus agent that moves `n` bytes with transactions of its own: it issues `RD src`, then `WR dst` with the byte returned, and
goes on with the next addresses, until it is done or a fault is on record. -/
def moves (n : Nat) (src dst : Addr) (s : State) : State :=
  match n with
  | 0 => s
  | n + 1 =>
    match exec (decode s.mode (readWord src)) s with
    | .next t =>
      match t.response with
      | none => t
      | some b =>
        match exec (decode t.mode (writeWord dst b)) t with
        | .next u => if u.fault = none then moves n (src + 1) (dst + 1) u else u
        | _ => t
    | _ => s

/-- What a transfer does once its bytes are moved, unless a fault ended it. -/
def unlessFaulted (t : State) (f : State → State) : State := if t.fault = none then f t else t

/-- The same outcome with its next state changed. -/
def mapNext (f : State → State) : Host.Outcome State Fault Refusal → Host.Outcome State Fault Refusal
  | .next t => .next (f t)
  | .fault r => .fault r
  | .refused r => .refused r

end Sys2Proof.Claims

section
open Sys2Proof Sys2Proof.Machine Sys2Proof.Claims

/-! ## Encoding and the step -/

/-- Words of 95_test_vectors.md section 13, in the modes of T0 (`Mode.atReset`), T1 and variations of them. -/
def Obligations.DecodesPublishedWords : Prop :=
  let t0 := Mode.atReset
  let t1 : Mode := { t0 with kind := .mbc3 }
  decode t0 0x0000000 = .rdFlat 0x0000 ∧ decode t0 0x07fff00 = .rdRomx 0x7fff ∧ decode t0 0x0a00000 = .rdEram 0xa000 ∧
  decode { t1 with rtcSel := 9 } 0x0a00000 = .rdRtc 0xa000 ∧ decode t0 0x0d00000 = .rdFlat 0xd000 ∧
  decode { t0 with wramBank := 2 } 0x0d00000 = .rdWramx 0xd000 ∧ decode t0 0x0ff2600 = .rdSnd 0xff26 ∧
  decode t0 0x0ff2700 = .rdFlat 0xff27 ∧ decode t0 0x0ff4000 = .rdLcdc ∧ decode t0 0x11fffff = .wcNopLow 0x1fff 0xff ∧
  decode t0 0x1200000 = .wcMbc1Romb 0x2000 0x00 ∧ decode t1 0x1200000 = .wcMbc3Romb 0x2000 0x00 ∧
  decode { t0 with kind := .noController } 0x1200000 = .wcNopKind 0x2000 0x00 ∧
  decode t1 0x1400007 = .wcMbc3Ramb 0x4000 0x07 ∧ decode t1 0x1400008 = .wcMbc3Rtcsel 0x4000 0x08 ∧
  decode t1 0x140000c = .wcMbc3Rtcsel 0x4000 0x0c ∧ decode t1 0x140000d = .wcMbc3Secign 0x4000 0x0d ∧
  decode t0 0x1600001 = .wcMbc1Mode 0x6000 0x01 ∧ decode t0 0x1c0005a = .wmFlat 0xc000 0x5a ∧
  decode t0 0x1ff4680 = .wmDma 0x80 ∧ decode t0 0x1ff7003 = .wmSvbk 0x03 ∧ decode t0 0x1ffffff = .wmFlat 0xffff 0xff

/-- Decode undoes encode, for every operation that is well formed in a mode. -/
def Obligations.DecodeOfEncodeIsTheInstruction : Prop :=
  ∀ (m : Mode) (i : Instr), m.regs.wf → i.wf m → decode m (encode m i) = i

/-- Every one of the 2^25 words decodes to a well-formed operation, whose encoding is the word (a read's unused data bits
cleared): no word has two readings and none has no reading. -/
def Obligations.EncodeOfDecodeIsTheWord : Prop :=
  ∀ (m : Mode) (w : TWord), m.regs.wf →
    (decode m w).wf m ∧ encode m (decode m w) = if w.isWrite then w else readWord w.addr

/-- R102: among the 52 rows of the opcode table whose pattern and condition hold, exactly one has the lowest priority number,
and it is the operation the decoder selects. -/
def Obligations.TableSelectsExactlyOneRow : Prop :=
  ∀ (m : Mode) (w : TWord), m.regs.wf →
    (opcodeTable m.regs).length = 52 ∧ (tableSelect m w).map (fun r => r.make w.addr w.data) = [decode m w]

/-- A step with a transaction issued takes it and is `exec` of the operation it decodes to. -/
def Obligations.StepRunsTheDecodedTransaction : Prop :=
  ∀ (s : State) (w : TWord) (rest : List Input), issued s w rest →
    step s = exec (decode s.mode w) { s with inputs := rest }

/-- R91, R12, R13, R238: each transaction ends in one step; a read that does not fault returns one byte, a write returns nothing, and
a transaction that faults returns nothing. The model's choices: the faulting transaction has a next state too (log
entry 8), and a step takes the oldest input and leaves the byte in the response field (log entries 4 and 25). -/
def Obligations.EveryTransactionEnds : Prop :=
  ∀ (s : State) (w : TWord) (rest : List Input), issued s w rest →
    ∃ t, step s = .next t ∧ t.inputs = rest ∧
      (t.fault = none → (t.response.isSome ↔ w.isWrite = false)) ∧ (t.fault ≠ none → t.response = none)

/-! ## Faults -/

/-- R59, decision D33: with a fault on record there is no step, and it is the only thing that stops a step. -/
def Obligations.RecordedFaultStopsTheMachine : Prop :=
  ∀ s : State, (∀ f, s.fault = some f ↔ step s = .fault f) ∧ (s.fault = none ↔ ∃ t, step s = .next t) ∧
    ∀ r, step s ≠ .refused r

/-- R230, R232, R235, R238: which operations raise which fault, what it records, and that a fault outside a transfer has
changed nothing else. (The codes and the records are decision D33, the second fault is decision D26.) -/
def Obligations.FaultsAreTheListedOnes : Prop :=
  ∀ (s t : State) (i : Instr) (f : Fault), s.fault = none → exec i s = .next t → t.fault = some f →
    ((∃ a v, i = .wcMbc1Romb a v ∨ i = .wcMbc3Romb a v ∨ i = .wcMbc1Romhi a v) ∧ 6 < s.cfg.romClass ∧
      f = .configFatal s.cfg.kind s.cfg.romClass s.cfg.ramClass ∧ t = { s with fault := some f, response := none }) ∨
    ((∃ a, i = .rdRomx a) ∧ s.cfg.nRomBanks ≤ s.romBank.toNat ∧ f = .bankOutOfRange .rom s.romBank.toNat ∧
      t = { s with fault := some f, response := none }) ∨
    ((∃ a v, i = .rdEram a ∨ i = .wmEram a v) ∧ s.cfg.nEramBanks ≤ s.ramBank.toNat ∧
      f = .bankOutOfRange .eram s.ramBank.toNat ∧ t = { s with fault := some f, response := none }) ∨
    ((∃ v, i = .wmDma v ∨ i = .wmHdma5 v) ∧ t.cycles = s.cycles ∧
      (s.cfg.nRomBanks ≤ s.romBank.toNat ∧ f = .bankOutOfRange .rom s.romBank.toNat ∨
       s.rtcSel = 0 ∧ s.cfg.nEramBanks ≤ s.ramBank.toNat ∧ f = .bankOutOfRange .eram s.ramBank.toNat))

/-- R270: in a legal state of a configuration whose ROM class is recognised, with the external-RAM window open, no step raises a
fault. -/
def Obligations.WellFormedConfigurationNeverFaults : Prop :=
  ∀ s t : State, s.Legal → s.cfg.romClassKnown → s.eramWindowOpen → step s = .next t → t.fault = none

/-! ## The whole machine -/

/-- The state after reset is legal (the reset values are the spec's decisions D6 to D12; the configuration and the memories are
the model's choice, log entries 1 and 2). -/
def Obligations.ResetIsLegal : Prop := State.reset.Legal ∧ State.reset.fault = none

/-- R28, with the canonical form of every memory: legality is an invariant of every step from every legal state. -/
def Obligations.StepKeepsLegal : Prop := ∀ s t : State, s.Legal → step s = .next t → t.Legal

/-- R261 to R264 (decisions D6 to D12): what reset leaves in the bank registers, flags, indices and the fault record. -/
def Obligations.ResetRegisters : Prop :=
  let s := State.reset
  s.romBank = 1 ∧ s.ramBank = 0 ∧ s.bankMode = false ∧ s.rtcSel = 0 ∧ s.vramBank = 0 ∧ s.wramBank = 1 ∧
  s.bgIdx = 0 ∧ s.obIdx = 0 ∧ s.bgInc = false ∧ s.obInc = false ∧ s.fault = none

/-- R29: no step changes the configuration. -/
def Obligations.ConfigurationNeverChanges : Prop := ∀ s t : State, step s = .next t → t.cfg = s.cfg

/-- R28 (i), R51: no step changes `rom`, nor a flat cell below 0xc000. -/
def Obligations.RomAndFixedCellsNeverChange : Prop :=
  ∀ s t : State, s.cfg.regs.wf → step s = .next t →
    t.rom = s.rom ∧ ∀ k, k < 0xc000 → Memory.read t.flat k = Memory.read s.flat k

/-- R123: a read changes no state variable, and the fault record only by raising `BankOutOfRange`. -/
def Obligations.ReadIsSideEffectFree : Prop :=
  ∀ (s t : State) (w : TWord) (rest : List Input), issued s w rest → w.isWrite = false → step s = .next t →
    t = { s with inputs := rest, response := t.response, fault := t.fault } ∧
      (t.fault = none ∨ ∃ c p, t.fault = some (.bankOutOfRange c p))

/-- R125: a write at or below 0x7fff stores nothing; it can change only the controller's registers, the clock and the fault
record. -/
def Obligations.CommandStoresNothing : Prop :=
  ∀ (s t : State) (w : TWord) (rest : List Input), issued s w rest → w.isWrite → w.addr.toNat ≤ 0x7fff → step s = .next t →
    t = { s with
      inputs := rest, response := none, romBank := t.romBank, ramBank := t.ramBank, bankMode := t.bankMode,
      rtcSel := t.rtcSel, rtc := t.rtc, fault := t.fault }

/-- R152: only the three bank-switching commands move the ROM pointer, and only to a pointer below the limit of a class other
than 0. -/
def Obligations.OnlyBankSwitchMovesTheRomPointer : Prop :=
  ∀ (s t : State) (i : Instr), exec i s = .next t → t.romBank ≠ s.romBank →
    (∃ a v, i = .wcMbc1Romb a v ∨ i = .wcMbc3Romb a v ∨ i = .wcMbc1Romhi a v) ∧
    ∃ limit, limits[s.cfg.romClass]? = some limit ∧ s.cfg.romClass ≠ 0 ∧ t.romBank.toNat < limit

/-- R183, decision D32: a transaction adds 150 to the cycle counter when it is an object-memory DMA that no fault ended, and
otherwise leaves it. -/
def Obligations.OnlyObjectMemoryDmaCostsCycles : Prop :=
  ∀ (s t : State) (w : TWord) (rest : List Input), s.cfg.regs.wf → issued s w rest → step s = .next t →
    t.cycles = s.cycles + if w.isWrite ∧ w.addr = s.cfg.regs.dma ∧ t.fault = none then 150 else 0

/-- Decision D4: between transactions the environment changes only the shared state D4 lists, and only adds to the cycle counter;
with nothing put to it the block stays as it is (the model's choice, log entry 4). -/
def Obligations.EnvironmentChangesOnlySharedState : Prop :=
  (∀ (s : State) (e : EnvEvent) (rest : List Input), s.fault = none → s.inputs = .env e :: rest →
    ∃ t, step s = .next t ∧ s.cycles ≤ t.cycles ∧
      t = { s with
        inputs := rest, lcdc := t.lcdc, stat := t.stat, vram := t.vram, bgPal := t.bgPal, obPal := t.obPal,
        bgIdx := t.bgIdx, obIdx := t.obIdx, bgInc := t.bgInc, obInc := t.obInc, snd := t.snd, rtc := t.rtc,
        cycles := t.cycles }) ∧
  ∀ s : State, s.fault = none → s.inputs = [] → step s = .next s

/-- R171: while a clock register is mapped no step reads or writes external RAM (another content makes no difference and stays as
it is); a step that leaves it mapped leaves `ramBank`; and once `WC.MBC3.RAMB` has unmapped it, the bank then named is visible
with the contents it had. -/
def Obligations.MappedClockHidesExternalRam : Prop :=
  ∀ s : State, s.rtcSel ≠ 0 →
    (∀ e : Memory, step { s with eram := e } = mapNext (fun t => { t with eram := e }) (step s)) ∧
    (∀ t, s.cfg.kind = .mbc3 → step s = .next t → t.eram = s.eram ∧ (t.rtcSel ≠ 0 → t.ramBank = s.ramBank)) ∧
    ∀ a b v, within 0xa000 0xc000 b → v.toNat < s.cfg.nEramBanks →
      ∃ t, exec (.wcMbc3Ramb a v) s = .next t ∧
        exec (decode t.mode (readWord b)) t =
          .next { t with response := some (Memory.read s.eram (v.toNat * 0x2000 + (b.toNat - 0xa000))) }

/-! ## Reads -/

/-- R111: `RD.ROMX`. -/
def Obligations.ReadRomWindow : Prop :=
  ∀ s : State,
    selects s.mode 0x0400000 0x1c00000 (fun a _ => .rdRomx a) ∧
    (s.Legal → s.romBank.toNat < s.cfg.nRomBanks) ∧
    ∀ a, within 0x4000 0x8000 a →
      (s.romBank.toNat < s.cfg.nRomBanks →
        exec (.rdRomx a) s =
          .next { s with response := some (Memory.read s.rom (s.romBank.toNat * 0x4000 + (a.toNat - 0x4000))) }) ∧
      (s.cfg.nRomBanks ≤ s.romBank.toNat →
        exec (.rdRomx a) s =
          .next { s with fault := some (.bankOutOfRange .rom s.romBank.toNat), response := none })

/-- R112: `RD.VRAM`. -/
def Obligations.ReadVideoRam : Prop :=
  ∀ s : State,
    selects s.mode 0x0800000 0x1e00000 (fun a _ => .rdVram a) ∧
    (s.Legal → s.cfg.color = false → s.vramBank = 0) ∧
    ∀ a, within 0x8000 0xa000 a →
      exec (.rdVram a) s =
        .next { s with response := some (Memory.read s.vram (s.vramBank.toNat * 0x2000 + (a.toNat - 0x8000))) }

/-- R113: `RD.ERAM`. -/
def Obligations.ReadExternalRam : Prop :=
  ∀ s : State, s.rtcSel = 0 →
    selects s.mode 0x0a00000 0x1e00000 (fun a _ => .rdEram a) ∧
    ∀ a, within 0xa000 0xc000 a →
      (s.ramBank.toNat < s.cfg.nEramBanks →
        exec (.rdEram a) s =
          .next { s with response := some (Memory.read s.eram (s.ramBank.toNat * 0x2000 + (a.toNat - 0xa000))) }) ∧
      (s.cfg.nEramBanks ≤ s.ramBank.toNat →
        exec (.rdEram a) s =
          .next { s with fault := some (.bankOutOfRange .eram s.ramBank.toNat), response := none })

/-- R114: `RD.RTC` returns the collaborator's answer for the mapped selector, the same at every address of the window, whatever
`ramBank` is; in particular for selector 9 once `WC.MBC3.RTCSEL` has mapped it. -/
def Obligations.ReadMappedClock : Prop :=
  ∀ s : State,
    (s.rtcSel ≠ 0 →
      selects s.mode 0x0a00000 0x1e00000 (fun a _ => .rdRtc a) ∧
      ∀ a, within 0xa000 0xc000 a →
        exec (.rdRtc a) s = .next { s with response := some (Config.clockRead s.rtc s.rtcSel) }) ∧
    ∀ a b, within 0xa000 0xc000 a →
      ∃ t, exec (.wcMbc3Rtcsel b 9) s = .next t ∧ decode t.mode (readWord a) = .rdRtc a ∧
        exec (.rdRtc a) t = .next { t with response := some (Config.clockRead s.rtc 9) }

/-- R115: `RD.WRAMX`; with the pointer at 0 or 1, and so always out of colour mode, the same addresses are `RD.FLAT` and return the
flat cell. -/
def Obligations.ReadBankedWorkingRam : Prop :=
  ∀ s : State,
    (1 < s.wramBank.toNat →
      selects s.mode 0x0d00000 0x1f00000 (fun a _ => .rdWramx a) ∧
      ∀ a, within 0xd000 0xe000 a →
        exec (.rdWramx a) s =
          .next { s with response := some (Memory.read s.wram (s.wramBank.toNat * 0x1000 + (a.toNat - 0xd000))) }) ∧
    (s.wramBank.toNat ≤ 1 → s.cfg.regs.wf →
      selects s.mode 0x0d00000 0x1f00000 (fun a _ => .rdFlat a) ∧
      ∀ a, within 0xd000 0xe000 a →
        exec (.rdFlat a) s = .next { s with response := some (Memory.read s.flat a.toNat) }) ∧
    (s.Legal → s.cfg.color = false → s.wramBank.toNat ≤ 1)

/-- R116: `RD.SND` returns the collaborator's answer for the unchanged address, in both windows. -/
def Obligations.ReadSoundWindow : Prop :=
  ∀ s : State,
    (∀ w : TWord, w.isWrite = false → inSoundWindows w.addr → decode s.mode w = .rdSnd w.addr) ∧
    ∀ a, inSoundWindows a → exec (.rdSnd a) s = .next { s with response := some (Config.soundRead s.snd a) }

/-- R117, R118: `RD.LCDC` and `RD.STAT` return the graphics fields, whatever the flat cells hold; so a write is read back. -/
def Obligations.ReadLcdRegisters : Prop :=
  ∀ s : State, s.cfg.regs.wf →
    selects s.mode (readWord s.cfg.regs.lcdc) 0x1ffff00 (fun _ _ => .rdLcdc) ∧
    selects s.mode (readWord s.cfg.regs.stat) 0x1ffff00 (fun _ _ => .rdStat) ∧
    exec .rdLcdc s = .next { s with response := some s.lcdc } ∧
    exec .rdStat s = .next { s with response := some s.stat } ∧
    ∀ v,
      (∃ t, exec (.wmLcdc v) s = .next t ∧ exec .rdLcdc t = .next { t with response := some v }) ∧
      (∃ t, exec (.wmStat v) s = .next t ∧ exec .rdStat t = .next { t with response := some v })

/-- `RD.BGPD` and `RD.OBPD` return the palette cell at the index and do not advance it (the spec's decision D22). -/
def Obligations.ReadPaletteData : Prop :=
  ∀ s : State, s.cfg.regs.wf →
    selects s.mode (readWord s.cfg.regs.bgpd) 0x1ffff00 (fun _ _ => .rdBgpd) ∧
    selects s.mode (readWord s.cfg.regs.obpd) 0x1ffff00 (fun _ _ => .rdObpd) ∧
    exec .rdBgpd s = .next { s with response := some (Memory.read s.bgPal s.bgIdx.toNat) } ∧
    exec .rdObpd s = .next { s with response := some (Memory.read s.obPal s.obIdx.toNat) }

/-- R121: `RD.FLAT` is the operation of every read address that no other line of R61 claims, and returns the flat cell. Among those
addresses are all below 0x4000, the working-RAM window while its pointer is at most 1, and the named registers that are
read back raw; `A_HDMA5` reads 0xff after a transfer in colour mode that no fault ended. -/
def Obligations.ReadFlatCell : Prop :=
  ∀ s : State,
    (∀ w : TWord, w.isWrite = false → (Instr.rdFlat w.addr).wf s.mode → decode s.mode w = .rdFlat w.addr) ∧
    (∀ a, exec (.rdFlat a) s = .next { s with response := some (Memory.read s.flat a.toNat) }) ∧
    (s.cfg.regs.wf →
      let r := s.cfg.regs
      (∀ a : Addr, a.toNat < 0x4000 → (Instr.rdFlat a).wf s.mode) ∧
      (∀ a, within 0xd000 0xe000 a → s.wramBank.toNat ≤ 1 → (Instr.rdFlat a).wf s.mode) ∧
      (∀ a ∈ [r.dma, r.vbk, r.svbk, r.hdma1, r.hdma2, r.hdma3, r.hdma4, r.hdma5, r.bgpi, r.obpi], (Instr.rdFlat a).wf s.mode) ∧
      ∀ c t, s.cfg.color → exec (.wmHdma5 c) s = .next t → t.fault = none →
        exec (.rdFlat r.hdma5) t = .next { t with response := some 0xff })

/-! ## Stores -/

/-- R126: `WM.VRAM`. -/
def Obligations.StoreVideoRam : Prop :=
  ∀ s : State,
    selects s.mode 0x1800000 0x1e00000 (fun a v => .wmVram a v) ∧
    ∀ a v, within 0x8000 0xa000 a →
      ∃ t, exec (.wmVram a v) s = .next t ∧ t = { s with vram := t.vram, response := none } ∧
        stored s.vram t.vram (s.vramBank.toNat * 0x2000 + (a.toNat - 0x8000)) v

/-- R127: `WM.ERAM`. -/
def Obligations.StoreExternalRam : Prop :=
  ∀ s : State, s.rtcSel = 0 →
    selects s.mode 0x1a00000 0x1e00000 (fun a v => .wmEram a v) ∧
    ∀ a v, within 0xa000 0xc000 a →
      (s.ramBank.toNat < s.cfg.nEramBanks →
        ∃ t, exec (.wmEram a v) s = .next t ∧ t = { s with eram := t.eram, response := none } ∧
          stored s.eram t.eram (s.ramBank.toNat * 0x2000 + (a.toNat - 0xa000)) v) ∧
      (s.cfg.nEramBanks ≤ s.ramBank.toNat →
        exec (.wmEram a v) s =
          .next { s with fault := some (.bankOutOfRange .eram s.ramBank.toNat), response := none })

/-- R128: `WM.RTC` makes one call with the mapped selector and changes nothing else. -/
def Obligations.StoreMappedClock : Prop :=
  ∀ s : State, s.rtcSel ≠ 0 →
    selects s.mode 0x1a00000 0x1e00000 (fun a v => .wmRtc a v) ∧
    ∀ a v, within 0xa000 0xc000 a →
      exec (.wmRtc a v) s = .next { s with rtc := .write s.rtcSel v :: s.rtc, response := none }

/-- R129: `WM.WRAMX`; the flat cell is not changed. -/
def Obligations.StoreBankedWorkingRam : Prop :=
  ∀ s : State, 1 < s.wramBank.toNat →
    selects s.mode 0x1d00000 0x1f00000 (fun a v => .wmWramx a v) ∧
    ∀ a v, within 0xd000 0xe000 a →
      ∃ t, exec (.wmWramx a v) s = .next t ∧ t = { s with wram := t.wram, response := none } ∧
        stored s.wram t.wram (s.wramBank.toNat * 0x1000 + (a.toNat - 0xd000)) v

/-- R130: `WM.FLAT`, for every write address that no other row claims; the store is that of the address alone. It is the first
step of every write that R62 classifies `flat`, so after any of them the cell holds the byte (0xff at `A_HDMA5` once a
video DMA has completed). -/
def Obligations.StoreFlatCell : Prop :=
  ∀ s : State, s.cfg.regs.wf →
    (∀ w : TWord, w.isWrite → (Instr.wmFlat w.addr w.data).wf s.mode → decode s.mode w = .wmFlat w.addr w.data) ∧
    (∀ a v, ∃ t, exec (.wmFlat a v) s = .next t ∧ t = { s with flat := t.flat, response := none } ∧
      stored s.flat t.flat a.toNat v) ∧
    ∀ (w : TWord) (t : State), s.fault = none → w.isWrite → regionW s.mode w.addr = .flat → exec (decode s.mode w) s = .next t →
      Memory.read t.flat w.addr.toNat =
        if w.addr = s.cfg.regs.hdma5 ∧ s.cfg.color = true ∧ t.fault = none then 0xff else w.data

/-- R213: a write to one of `A_HDMA1` to `A_HDMA4` stores its byte and does nothing else; all eight bits read back. -/
def Obligations.StoreVideoDmaRegisters : Prop :=
  ∀ s : State, s.cfg.regs.wf →
    ∀ p ∈ [(s.cfg.regs.hdma1, Instr.wmHdma1), (s.cfg.regs.hdma2, Instr.wmHdma2), (s.cfg.regs.hdma3, Instr.wmHdma3),
        (s.cfg.regs.hdma4, Instr.wmHdma4)],
      selects s.mode (writeWord p.1 0) 0x1ffff00 (fun _ v => p.2 v) ∧
      ∀ v, ∃ t, exec (p.2 v) s = .next t ∧ t = { s with flat := t.flat, response := none } ∧
        stored s.flat t.flat p.1.toNat v ∧ exec (decode t.mode (readWord p.1)) t = .next { t with response := some v }

/-! ## Cartridge commands -/

/-- `WC.NOP.LOW`, `WC.NOP.KIND` and `WC.MBC3.SECIGN` change nothing (the spec's decisions D24, D25, D18). -/
def Obligations.IgnoredCommandsChangeNothing : Prop :=
  ∀ s : State,
    selects s.mode 0x1000000 0x1e00000 (fun a v => .wcNopLow a v) ∧
    (s.cfg.kind = .noController ∨ s.cfg.kind = .other →
      selects s.mode 0x1200000 0x1e00000 (fun a v => .wcNopKind a v) ∧
      selects s.mode 0x1400000 0x1c00000 (fun a v => .wcNopKind a v)) ∧
    (s.cfg.kind = .mbc3 → ∀ w : TWord, (w &&& 0x1e00000) = 0x1400000 → 0x0d ≤ w.data.toNat →
      decode s.mode w = .wcMbc3Secign w.addr w.data) ∧
    ∀ a v, exec (.wcNopLow a v) s = .next { s with response := none } ∧
      exec (.wcNopKind a v) s = .next { s with response := none } ∧
      exec (.wcMbc3Secign a v) s = .next { s with response := none }

/-- `WC.MBC1.ROMB`: byte 0 counts as 1, then the low five bits replace those of the pointer, through `BankSwitch`
(the spec's decisions D14, D15). -/
def Obligations.Mbc1RomBankSelect : Prop :=
  ∀ s : State,
    (s.cfg.kind = .mbc1 → selects s.mode 0x1200000 0x1e00000 (fun a v => .wcMbc1Romb a v)) ∧
    ∀ a v, switches s (s.romBank.toNat / 32 * 32 + (if v.toNat = 0 then 1 else v.toNat % 32)) (exec (.wcMbc1Romb a v) s)

/-- `WC.MBC3.ROMB`: the low seven bits, 0 replaced by 1 after the mask, through `BankSwitch` (the spec's decision D15). -/
def Obligations.Mbc3RomBankSelect : Prop :=
  ∀ s : State,
    (s.cfg.kind = .mbc3 → selects s.mode 0x1200000 0x1e00000 (fun a v => .wcMbc3Romb a v)) ∧
    ∀ a v, switches s (if v.toNat % 128 = 0 then 1 else v.toNat % 128) (exec (.wcMbc3Romb a v) s)

/-- `WC.MBC1.ROMHI`: two bits replace the pointer's high bits, through `BankSwitch` (the spec's decisions D15, D16). -/
def Obligations.Mbc1RomHighSelect : Prop :=
  ∀ s : State,
    (s.cfg.kind = .mbc1 → s.bankMode = false → selects s.mode 0x1400000 0x1e00000 (fun a v => .wcMbc1Romhi a v)) ∧
    ∀ a v, switches s (v.toNat % 4 * 32 + s.romBank.toNat % 32) (exec (.wcMbc1Romhi a v) s)

/-- R146: `WC.MBC1.RAMB` stores the whole byte in `ramBank`, whatever it is. -/
def Obligations.Mbc1RamBankSelect : Prop :=
  ∀ s : State,
    (s.cfg.kind = .mbc1 → s.bankMode = true → selects s.mode 0x1400000 0x1e00000 (fun a v => .wcMbc1Ramb a v)) ∧
    ∀ a v, exec (.wcMbc1Ramb a v) s = .next { s with ramBank := v, response := none }

/-- R147, R148: bytes 0 to 7 unmap the clock and set `ramBank`; bytes 8 to 12 map that clock register and leave `ramBank`; no other
transaction unmaps the clock. -/
def Obligations.Mbc3SecondaryCommands : Prop :=
  ∀ s : State,
    (s.cfg.kind = .mbc3 →
      selects s.mode 0x1400000 0x1e000f8 (fun a v => .wcMbc3Ramb a v) ∧
      selects s.mode 0x1400008 0x1e000fc (fun a v => .wcMbc3Rtcsel a v) ∧
      selects s.mode 0x140000c 0x1e000ff (fun a v => .wcMbc3Rtcsel a v)) ∧
    (∀ a v, exec (.wcMbc3Ramb a v) s = .next { s with rtcSel := 0, ramBank := v, response := none } ∧
      exec (.wcMbc3Rtcsel a v) s = .next { s with rtcSel := v, response := none }) ∧
    ∀ w t, exec (decode s.mode w) s = .next t → s.rtcSel ≠ 0 → t.rtcSel = 0 → ∃ a v, decode s.mode w = .wcMbc3Ramb a v

/-- `WC.MBC1.MODE`: 0 and 1 are stored, every other byte is ignored, nothing is re-mapped (the spec's decisions D17, D39). -/
def Obligations.Mbc1ModeSelect : Prop :=
  ∀ s : State,
    (s.cfg.kind = .mbc1 → selects s.mode 0x1600000 0x1e00000 (fun a v => .wcMbc1Mode a v)) ∧
    ∀ a v, exec (.wcMbc1Mode a v) s =
      .next { s with
        bankMode := if v.toNat = 0 then false else if v.toNat = 1 then true else s.bankMode, response := none }

/-- `WC.MBC3.LATCH`: byte 1 forwards one latch trigger, every other byte none, mapped or not (the spec's decision D19). -/
def Obligations.Mbc3LatchTrigger : Prop :=
  ∀ s : State,
    (s.cfg.kind = .mbc3 → selects s.mode 0x1600000 0x1e00000 (fun a v => .wcMbc3Latch a v)) ∧
    ∀ a v, exec (.wcMbc3Latch a v) s =
      .next { s with rtc := if v.toNat = 1 then .latch :: s.rtc else s.rtc, response := none }

/-! ## I/O registers -/

/-- R201, R202: the byte is stored and mirrored whole into the graphics field, and reads back from it. -/
def Obligations.WriteLcdRegisters : Prop :=
  ∀ s : State, s.cfg.regs.wf →
    selects s.mode (writeWord s.cfg.regs.lcdc 0) 0x1ffff00 (fun _ v => .wmLcdc v) ∧
    selects s.mode (writeWord s.cfg.regs.stat 0) 0x1ffff00 (fun _ v => .wmStat v) ∧
    ∀ v,
      (∃ t, exec (.wmLcdc v) s = .next t ∧ t = { s with flat := t.flat, lcdc := v, response := none } ∧
        stored s.flat t.flat s.cfg.regs.lcdc.toNat v ∧ exec .rdLcdc t = .next { t with response := some v }) ∧
      (∃ t, exec (.wmStat v) s = .next t ∧ t = { s with flat := t.flat, stat := v, response := none } ∧
        stored s.flat t.flat s.cfg.regs.stat.toNat v ∧ exec .rdStat t = .next { t with response := some v })

/-- `WM.BGPI` and `WM.OBPI`: bits 5 to 0 set the index, bit 7 the increment flag, of one pair only (the spec's decision D21). -/
def Obligations.WritePaletteIndex : Prop :=
  ∀ s : State, s.cfg.regs.wf →
    selects s.mode (writeWord s.cfg.regs.bgpi 0) 0x1ffff00 (fun _ v => .wmBgpi v) ∧
    selects s.mode (writeWord s.cfg.regs.obpi 0) 0x1ffff00 (fun _ v => .wmObpi v) ∧
    ∀ v,
      (∃ t, exec (.wmBgpi v) s = .next t ∧
        t = { s with flat := t.flat, bgIdx := t.bgIdx, bgInc := decide (128 ≤ v.toNat), response := none } ∧
        t.bgIdx.toNat = v.toNat % 64 ∧ stored s.flat t.flat s.cfg.regs.bgpi.toNat v) ∧
      (∃ t, exec (.wmObpi v) s = .next t ∧
        t = { s with flat := t.flat, obIdx := t.obIdx, obInc := decide (128 ≤ v.toNat), response := none } ∧
        t.obIdx.toNat = v.toNat % 64 ∧ stored s.flat t.flat s.cfg.regs.obpi.toNat v)

/-- `WM.BGPD` and `WM.OBPD`: the byte goes to the palette cell at the index, which then advances modulo 64 while its flag is
set; the other pair is untouched (the modulus is the spec's decision D20). -/
def Obligations.WritePaletteData : Prop :=
  ∀ s : State, s.cfg.regs.wf →
    selects s.mode (writeWord s.cfg.regs.bgpd 0) 0x1ffff00 (fun _ v => .wmBgpd v) ∧
    selects s.mode (writeWord s.cfg.regs.obpd 0) 0x1ffff00 (fun _ v => .wmObpd v) ∧
    ∀ v,
      (∃ t, exec (.wmBgpd v) s = .next t ∧
        t = { s with flat := t.flat, bgPal := t.bgPal, bgIdx := t.bgIdx, response := none } ∧
        stored s.flat t.flat s.cfg.regs.bgpd.toNat v ∧ stored s.bgPal t.bgPal s.bgIdx.toNat v ∧
        t.bgIdx.toNat = if s.bgInc then (s.bgIdx.toNat + 1) % 64 else s.bgIdx.toNat) ∧
      (∃ t, exec (.wmObpd v) s = .next t ∧
        t = { s with flat := t.flat, obPal := t.obPal, obIdx := t.obIdx, response := none } ∧
        stored s.flat t.flat s.cfg.regs.obpd.toNat v ∧ stored s.obPal t.obPal s.obIdx.toNat v ∧
        t.obIdx.toNat = if s.obInc then (s.obIdx.toNat + 1) % 64 else s.obIdx.toNat)

/-- R207: a write in the first sound window is stored and forwarded verbatim; 0xff26 is its last address. -/
def Obligations.WriteSoundRegisters : Prop :=
  ∀ s : State, s.cfg.regs.wf →
    (∀ w : TWord, w.isWrite → within 0xff10 0xff27 w.addr → decode s.mode w = .wmSndReg w.addr w.data) ∧
    (∀ w v, decode s.mode w ≠ .wmSndReg 0xff27 v) ∧
    ∀ a v, within 0xff10 0xff27 a → ∃ t, exec (.wmSndReg a v) s = .next t ∧
      t = { s with flat := t.flat, snd := .write a v :: s.snd, response := none } ∧ stored s.flat t.flat a.toNat v

/-- A write in the second sound window is stored and forwarded verbatim through the collaborator's waveform call (which call is the
spec's decision D34). -/
def Obligations.WriteWaveform : Prop :=
  ∀ s : State, s.cfg.regs.wf →
    selects s.mode 0x1ff3000 0x1fff000 (fun a v => .wmSndWave a v) ∧
    ∀ a v, within 0xff30 0xff40 a → ∃ t, exec (.wmSndWave a v) s = .next t ∧
      t = { s with flat := t.flat, snd := .writeWave a v :: s.snd, response := none } ∧ stored s.flat t.flat a.toNat v

/-- The low bit of the byte written to `A_VBK` becomes the video-RAM bank in colour mode (R209). Out of colour mode the byte is stored,
the pointer is left and the byte reads back, by the spec's decision D36 (R215), log entry 20. -/
def Obligations.VideoRamBankSelect : Prop :=
  ∀ s : State, s.cfg.regs.wf →
    selects s.mode (writeWord s.cfg.regs.vbk 0) 0x1ffff00 (fun _ v => .wmVbk v) ∧
    ∀ v, ∃ t, exec (.wmVbk v) s = .next t ∧ t = { s with flat := t.flat, vramBank := t.vramBank, response := none } ∧
      stored s.flat t.flat s.cfg.regs.vbk.toNat v ∧
      (t.vramBank.toNat = if s.cfg.color then v.toNat % 2 else s.vramBank.toNat) ∧
      exec (decode t.mode (readWord s.cfg.regs.vbk)) t = .next { t with response := some v }

/-- The low three bits of the byte written to `A_SVBK`, 0 replaced by 1 after the mask, become the working-RAM bank in colour mode
(R210). Out of colour mode the byte is stored and the pointer is left, by the spec's decision D36 (R215), log entry 20. -/
def Obligations.WorkingRamBankSelect : Prop :=
  ∀ s : State, s.cfg.regs.wf →
    selects s.mode (writeWord s.cfg.regs.svbk 0) 0x1ffff00 (fun _ v => .wmSvbk v) ∧
    ∀ v, ∃ t, exec (.wmSvbk v) s = .next t ∧ t = { s with flat := t.flat, wramBank := t.wramBank, response := none } ∧
      stored s.flat t.flat s.cfg.regs.svbk.toNat v ∧
      t.wramBank.toNat = if s.cfg.color then (if v.toNat % 8 = 0 then 1 else v.toNat % 8) else s.wramBank.toNat

/-! ## Transfers -/

/-- R214: no byte a transfer writes goes to an address with a dispatcher row, and none is a command (an object-memory DMA stays in
flat storage; a video DMA's whole range lies in the video-RAM and external-RAM windows). -/
def Obligations.TransferWritesTriggerNothing : Prop :=
  ∀ m : Mode, m.regs.wf →
    (∀ n v, n < 160 →
      decode m (writeWord (m.regs.oam + BitVec.ofNat 16 n) v) = .wmFlat (m.regs.oam + BitVec.ofNat 16 n) v) ∧
    ∀ (h3 h4 c v : Byte) (n : Nat), n < videoLength c →
      let a := videoDest h3 h4 + BitVec.ofNat 16 n
      0x8000 ≤ a.toNat ∧ a.toNat ≤ 0xa7fe ∧
        (decode m (writeWord a v) = .wmVram a v ∨ decode m (writeWord a v) = .wmEram a v ∨
          decode m (writeWord a v) = .wmRtc a v)

/-- R181, R183, R211: an object-memory DMA is 160 read and write transactions of the block itself, from the written page to the
object-attribute table, after the trigger byte is stored; then 150 cycles, unless a fault ended it. For every state and byte. -/
def Obligations.OamDmaIsReadAndWriteTransactions : Prop :=
  ∀ (s : State) (v : Byte), s.cfg.regs.wf → s.fault = none →
    exec (.wmDma v) s =
      .next (unlessFaulted (moves 160 (v ++ 0#8) s.cfg.regs.oam { s with flat := Memory.write s.flat s.cfg.regs.dma.toNat v })
        fun t => { t with cycles := t.cycles + 150 })

/-- R184 to R190, R212, R194 (decisions D27 to D31, D36): a video DMA in colour mode is `len` read and write transactions of the
block itself between the assembled addresses, in either mode, then the sentinel as a raw store, unless a fault ended it;
out of colour mode only the trigger byte is stored. For every state and byte. -/
def Obligations.VideoDmaIsReadAndWriteTransactions : Prop :=
  ∀ (s : State) (c : Byte), s.cfg.regs.wf → s.fault = none →
    let r := s.cfg.regs
    let s1 : State := { s with flat := Memory.write s.flat r.hdma5.toNat c }
    let h := fun a : Addr => (Memory.read s.flat a.toNat).toNat
    let src := BitVec.ofNat 16 (h r.hdma1 * 256 + h r.hdma2 / 16 * 16)
    let dst := BitVec.ofNat 16 (0x8000 + h r.hdma3 % 32 * 256 + h r.hdma4)
    exec (.wmHdma5 c) s =
      .next (if s.cfg.color then
          unlessFaulted (moves ((c.toNat % 128 + 1) * 16) src dst s1)
            fun t => { t with flat := Memory.write t.flat r.hdma5.toNat 0xff }
        else { s1 with response := none })

/-- R181 to R183: with the source page readable, an object-memory DMA completes; entry `n` of the table is what the block read at
the source before the copy began, unless the table begins inside the 160 source bytes after their first (no page is so at
the source's 0xfe00, the table's own page included; ascending order is decision D38); nothing else changes but the
trigger cell and the cycle counter. -/
def Obligations.OamDmaCopiesTheSourcePage : Prop :=
  ∀ (s : State) (v : Byte), s.cfg.regs.wf →
    (0x40 ≤ v.toNat → v.toNat < 0x80 → s.romBank.toNat < s.cfg.nRomBanks) →
    (0xa0 ≤ v.toNat → v.toNat < 0xc0 → s.eramWindowOpen) →
    (s.cfg.regs.oam.toNat ≤ v.toNat * 256 ∨ v.toNat * 256 + 160 ≤ s.cfg.regs.oam.toNat) →
    ∃ t, exec (.wmDma v) s = .next t ∧
      t = { s with flat := t.flat, cycles := s.cycles + 150, response := none } ∧
      (∀ n, n < 160 →
        readByte { s with flat := Memory.write s.flat s.cfg.regs.dma.toNat v } (BitVec.ofNat 16 (v.toNat * 256 + n)) =
          .ok (Memory.read t.flat (s.cfg.regs.oam.toNat + n))) ∧
      ∀ k, ¬ (s.cfg.regs.oam.toNat ≤ k ∧ k < s.cfg.regs.oam.toNat + 160) →
        Memory.read t.flat k = if k = s.cfg.regs.dma.toNat then v else Memory.read s.flat k

/-- R184 to R189 (decisions D27 to D32): a video DMA in colour mode whose source can be read, whose destination stays inside the
video-RAM window and whose source does not meet its destination completes; byte `n` of the destination is what the block
read at the source; the trigger cell holds the sentinel; no other cell, pointer or counter changes. -/
def Obligations.VideoDmaCopiesDisjointRanges : Prop :=
  ∀ (s : State) (c : Byte), s.cfg.regs.wf → s.cfg.color →
    s.romBank.toNat < s.cfg.nRomBanks → s.eramWindowOpen →
    let s1 : State := { s with flat := Memory.write s.flat s.cfg.regs.hdma5.toNat c }
    let src := videoSource (flatCell s s.cfg.regs.hdma1) (flatCell s s.cfg.regs.hdma2)
    let dst := videoDest (flatCell s s.cfg.regs.hdma3) (flatCell s s.cfg.regs.hdma4)
    let len := videoLength c
    dst.toNat + len ≤ 0xa000 →
    (∀ n, n < len → ¬ (dst.toNat ≤ (src + BitVec.ofNat 16 n).toNat ∧ (src + BitVec.ofNat 16 n).toNat < dst.toNat + len)) →
    ∃ t, exec (.wmHdma5 c) s = .next t ∧
      t = { s with flat := t.flat, vram := t.vram, response := none } ∧
      stored s.flat t.flat s.cfg.regs.hdma5.toNat 0xff ∧
      (∀ n, n < len →
        readByte s1 (src + BitVec.ofNat 16 n) = .ok (Memory.read t.vram (vramIndex s.vramBank dst + n))) ∧
      ∀ k, ¬ (vramIndex s.vramBank dst ≤ k ∧ k < vramIndex s.vramBank dst + len) →
        Memory.read t.vram k = Memory.read s.vram k

/-- R190 (decision D31): the mode bit changes nothing, where the transfer raises no fault and does not read its own trigger cell.
(Where it does read it, the byte it reads there is the byte just stored, R131, and the two writes differ: log entry 9. A
transfer that a fault ends leaves the byte just stored in the trigger cell, R193.) -/
def Obligations.VideoDmaModeBitChangesNothing : Prop :=
  ∀ (s : State) (c : Byte), s.cfg.regs.wf → s.cfg.color →
    s.romBank.toNat < s.cfg.nRomBanks → s.eramWindowOpen →
    let src := videoSource (flatCell s s.cfg.regs.hdma1) (flatCell s s.cfg.regs.hdma2)
    (∀ n, n < videoLength c → src + BitVec.ofNat 16 n ≠ s.cfg.regs.hdma5) →
    exec (.wmHdma5 (c ||| 0x80)) s = exec (.wmHdma5 (c &&& 0x7f)) s

/-! ## The launch premise -/

/-- R266, decision D40: the launch premise `State.FixedBankLoaded` is one that a run keeps, and under it a read below 0x4000 returns
the byte of ROM bank 0. (That it holds at reset is the model's choice of empty images, log entry 2.) -/
def Obligations.FixedBankPremiseIsKept : Prop :=
  State.reset.FixedBankLoaded ∧
  ∀ s : State, s.cfg.regs.wf → s.FixedBankLoaded →
    (∀ t, step s = .next t → t.FixedBankLoaded) ∧
    ∀ a : Addr, a.toNat < 0x4000 →
      exec (decode s.mode (readWord a)) s = .next { s with response := some (Memory.read s.rom a.toNat) }

end
end

