-- ==== Sys2Proof/Laws/Decode.lean ====
section
/-! SUPPORT. The fields of the two word forms, words as numbers, what a well-formed register map gives, and where the
classifications lead. -/
namespace Sys2Proof

@[simp] theorem within_iff (lo hi : Nat) (a : Addr) : within lo hi a = true ↔ lo ≤ a.toNat ∧ a.toNat < hi := by
  simp [within]

theorem within_false_iff (lo hi : Nat) (a : Addr) : within lo hi a = false ↔ (lo ≤ a.toNat → hi ≤ a.toNat) := by
  rw [← Bool.not_eq_true, within_iff]; omega

/-! ## Words -/

theorem readWord_toNat (a : Addr) : (readWord a).toNat = a.toNat * 256 := by
  simp only [readWord, BitVec.toNat_append, BitVec.toNat_ofNat, Nat.shiftLeft_eq]
  simp

theorem writeWord_toNat (a : Addr) (v : Byte) : (writeWord a v).toNat = 2 ^ 24 + a.toNat * 256 + v.toNat := by
  simp only [writeWord, BitVec.toNat_append, BitVec.toNat_ofNat, Nat.shiftLeft_eq]
  rw [← Nat.shiftLeft_eq, ← Nat.shiftLeft_eq, ← Nat.shiftLeft_add_eq_or_of_lt a.isLt, Nat.shiftLeft_eq,
    Nat.shiftLeft_eq, ← Nat.shiftLeft_eq _ 8, ← Nat.shiftLeft_add_eq_or_of_lt v.isLt, Nat.shiftLeft_eq]
  omega

theorem isWrite_iff (w : TWord) : w.isWrite = true ↔ 2 ^ 24 ≤ w.toNat := by
  have := w.isLt
  rw [TWord.isWrite, BitVec.getLsbD, Nat.testBit_eq_decide_div_mod_eq, decide_eq_true_eq]
  omega

theorem addr_toNat (w : TWord) : w.addr.toNat = w.toNat / 256 % 65536 := by
  simp [TWord.addr, BitVec.extractLsb'_toNat, Nat.shiftRight_eq_div_pow]

theorem data_toNat (w : TWord) : w.data.toNat = w.toNat % 256 := by
  simp [TWord.data, BitVec.extractLsb'_toNat]

@[simp] theorem readWord_isWrite (a : Addr) : (readWord a).isWrite = false := by
  have := a.isLt
  rw [← Bool.not_eq_true, isWrite_iff, readWord_toNat]; omega

@[simp] theorem readWord_addr (a : Addr) : (readWord a).addr = a := by
  have := a.isLt
  apply BitVec.eq_of_toNat_eq; rw [addr_toNat, readWord_toNat]; omega

@[simp] theorem readWord_data (a : Addr) : (readWord a).data = 0 := by
  apply BitVec.eq_of_toNat_eq; rw [data_toNat, readWord_toNat]; simp

@[simp] theorem writeWord_isWrite (a : Addr) (v : Byte) : (writeWord a v).isWrite = true := by
  rw [isWrite_iff, writeWord_toNat]; omega

@[simp] theorem writeWord_addr (a : Addr) (v : Byte) : (writeWord a v).addr = a := by
  have := a.isLt; have := v.isLt
  apply BitVec.eq_of_toNat_eq; rw [addr_toNat, writeWord_toNat]; omega

@[simp] theorem writeWord_data (a : Addr) (v : Byte) : (writeWord a v).data = v := by
  have := v.isLt
  apply BitVec.eq_of_toNat_eq; rw [data_toNat, writeWord_toNat]; omega

/-- Every word is the word of a read, or of a write, of its own fields; a read's data bits are unused. -/
theorem writeWord_fields {w : TWord} (h : w.isWrite = true) : writeWord w.addr w.data = w := by
  rw [isWrite_iff] at h
  have := w.isLt
  apply BitVec.eq_of_toNat_eq; rw [writeWord_toNat, addr_toNat, data_toNat]; omega

theorem word_ext {w u : TWord} (hd : w.isWrite = u.isWrite) (ha : w.addr = u.addr) (hv : w.data = u.data) : w = u := by
  have h1 := isWrite_iff w
  have h2 := isWrite_iff u
  have h3 := addr_toNat w
  have h4 := addr_toNat u
  have h5 := data_toNat w
  have h6 := data_toNat u
  have := w.isLt
  have := u.isLt
  rw [hd] at h1; rw [ha] at h3; rw [hv] at h5
  apply BitVec.eq_of_toNat_eq
  by_cases hu : u.isWrite = true
  · have := h1.mp hu; have := h2.mp hu; omega
  · have e1 : ¬ 2 ^ 24 ≤ w.toNat := fun h => hu (h1.mpr h)
    have e2 : ¬ 2 ^ 24 ≤ u.toNat := fun h => hu (h2.mpr h)
    omega

@[simp] theorem decode_readWord (m : Mode) (a : Addr) : decode m (readWord a) = decodeRead m a := by
  simp [decode]

@[simp] theorem decode_writeWord (m : Mode) (a : Addr) (v : Byte) : decode m (writeWord a v) = decodeWrite m a v := by
  simp [decode]

theorem decode_read {m : Mode} {w : TWord} (h : w.isWrite = false) : decode m w = decodeRead m w.addr := by
  simp [decode, h]

theorem decode_write {m : Mode} {w : TWord} (h : w.isWrite = true) : decode m w = decodeWrite m w.addr w.data := by
  simp [decode, h]

/-! ## Patterns: a mask that keeps the top bits compares quotients -/

/-- A mask of the bits from `k` up keeps what the quotient by `2 ^ k` says. -/
theorem and_mask_eq_iff {n k : Nat} (w mask mtch : BitVec n) (hk : mask = BitVec.allOnes n <<< k)
    (hm : mtch.toNat % 2 ^ k = 0) : (w &&& mask) = mtch ↔ w.toNat / 2 ^ k = mtch.toNat / 2 ^ k := by
  subst hk
  have low : ∀ i, i < k → mtch.getLsbD i = false := by
    intro i hi
    rw [BitVec.getLsbD, Nat.testBit_eq_decide_div_mod_eq]
    obtain ⟨q, hq⟩ := Nat.dvd_of_mod_eq_zero hm
    rw [hq, show k = i + (k - i - 1 + 1) by omega, Nat.pow_add, Nat.mul_assoc,
      Nat.mul_div_cancel_left _ (Nat.two_pow_pos i), Nat.pow_succ, Nat.mul_comm _ 2, Nat.mul_assoc]
    simp
  constructor
  · intro h
    apply Nat.eq_of_testBit_eq
    intro i
    rw [Nat.testBit_div_two_pow, Nat.testBit_div_two_pow]
    have := congrArg (fun x => x.getLsbD (i + k)) h
    simp only [BitVec.getLsbD_and, BitVec.getLsbD_shiftLeft, BitVec.getLsbD_allOnes] at this
    by_cases hik : i + k < n
    · have h1 : i + k - k = i := by omega
      have h2 : i < n := by omega
      have e : w.getLsbD (i + k) = mtch.getLsbD (i + k) := by simpa [hik, h2] using this
      exact e
    · have hw := BitVec.getLsbD_of_ge w (i + k) (by omega)
      have hv := BitVec.getLsbD_of_ge mtch (i + k) (by omega)
      rw [BitVec.getLsbD] at hw hv
      rw [hw, hv]
  · intro h
    apply BitVec.eq_of_getLsbD_eq
    intro i hi
    rw [BitVec.getLsbD_and, BitVec.getLsbD_shiftLeft, BitVec.getLsbD_allOnes]
    by_cases hik : i < k
    · simp [hik, low i hik]
    · have := congrArg (fun x => x.testBit (i - k)) h
      simp only [Nat.testBit_div_two_pow] at this
      rw [show i - k + k = i by omega] at this
      have h2 : i - k < n := by omega
      simp [hi, hik, h2, BitVec.getLsbD, this]

/-! ## Fields of a pattern's words -/

/-- A pattern that fixes the word from bit `8 + k` up fixes its direction and the address from bit `k` up. -/
theorem pattern_fields {w mtch mask : TWord} (k : Nat) (hk : k ≤ 16) (hmask : mask = BitVec.allOnes 25 <<< (8 + k))
    (hlow : mtch.toNat % 2 ^ (8 + k) = 0) (h : (w &&& mask) = mtch) :
    w.isWrite = mtch.isWrite ∧ w.addr.toNat / 2 ^ k = mtch.addr.toNat / 2 ^ k := by
  have hq := (and_mask_eq_iff w mask mtch hmask hlow).mp h
  have hd : 2 ^ (8 + k) ∣ 2 ^ 24 := Nat.pow_dvd_pow 2 (by omega)
  have h24 : w.toNat / 2 ^ 24 = mtch.toNat / 2 ^ 24 := by
    obtain ⟨c, hc⟩ := hd
    rw [hc, ← Nat.div_div_eq_div_mul, ← Nat.div_div_eq_div_mul, hq]
  have hw := w.isLt
  have hm := mtch.isLt
  constructor
  · rw [Bool.eq_iff_iff, isWrite_iff, isWrite_iff]; omega
  · have key : ∀ u : TWord, u.addr.toNat / 2 ^ k = u.toNat / 2 ^ (8 + k) % 2 ^ (16 - k) := by
      intro u
      rw [addr_toNat, Nat.pow_add, ← Nat.div_div_eq_div_mul, show (2 : Nat) ^ 8 = 256 from rfl,
        show 65536 = 2 ^ k * 2 ^ (16 - k) by
        rw [← Nat.pow_add, show k + (16 - k) = 16 by omega], Nat.mod_mul_right_div_self]
    rw [key, key, hq]

/-- The pattern of a named register's read row (R102). -/
theorem read_register_fields {w : TWord} {r : Addr} (h : (w &&& 0x1ffff00) = readWord r) : w.isWrite = false ∧ w.addr = r := by
  have := pattern_fields 0 (by omega) (by decide) (by rw [readWord_toNat]; omega) h
  simpa [BitVec.toNat_inj] using this

/-- The pattern of a named register's write row (R102). -/
theorem write_register_fields {w : TWord} {r : Addr} (h : (w &&& 0x1ffff00) = writeWord r 0) : w.isWrite = true ∧ w.addr = r := by
  have := pattern_fields 0 (by omega) (by decide) (by rw [writeWord_toNat]; simp) h
  simpa [BitVec.toNat_inj] using this

/-- A mask acts on each field of the word. -/
@[simp] theorem and_isWrite (w m : TWord) : TWord.isWrite (w &&& m) = (w.isWrite && m.isWrite) := by
  simp [TWord.isWrite]

@[simp] theorem and_addr (w m : TWord) : TWord.addr (w &&& m) = w.addr &&& m.addr := by
  apply BitVec.eq_of_getLsbD_eq
  intro i hi
  simp [TWord.addr, hi]

@[simp] theorem and_data (w m : TWord) : TWord.data (w &&& m) = w.data &&& m.data := by
  apply BitVec.eq_of_getLsbD_eq
  intro i hi
  simp [TWord.data, hi]

/-! ## A well-formed register map (R8) -/

theorem AddrMap.wf_place {r : AddrMap} (h : r.wf = true) {a : Addr} (ha : a ∈ r.toList) : r.registerPlace a = true := by
  rw [AddrMap.wf, Bool.and_eq_true, List.all_eq_true] at h
  exact h.2 a ha

theorem AddrMap.wf_oamPlace {r : AddrMap} (h : r.wf = true) : oamPlace r.oam = true := by
  rw [AddrMap.wf, Bool.and_eq_true, Bool.and_eq_true] at h
  exact h.1.2

theorem AddrMap.wf_nodup {r : AddrMap} (h : r.wf = true) : r.toList.Nodup := by
  rw [AddrMap.wf, Bool.and_eq_true, Bool.and_eq_true, decide_eq_true_eq] at h
  exact h.1.1

/-- The place of the object-attribute table, as bounds on its base. -/
theorem oamPlace_bounds {o : Addr} (h : oamPlace o = true) :
    0xc000 ≤ o.toNat ∧ o.toNat + 160 ≤ 0x10000 ∧ (o.toNat + 160 ≤ 0xd000 ∨ 0xe000 ≤ o.toNat) ∧
      (o.toNat + 160 ≤ 0xff10 ∨ 0xff27 ≤ o.toNat) ∧ (o.toNat + 160 ≤ 0xff30 ∨ 0xff40 ≤ o.toNat) := by
  simpa [oamPlace, oamClearOf, oamLength, and_assoc] using h

/-- Entry `n` of the table lies `n` above its base: the table does not wrap. -/
theorem AddrMap.wf_oam_add {r : AddrMap} (h : r.wf = true) {n : Nat} (hn : n < 160) :
    (r.oam + BitVec.ofNat 16 n).toNat = r.oam.toNat + n := by
  have := oamPlace_bounds (AddrMap.wf_oamPlace h)
  rw [BitVec.toNat_add, BitVec.toNat_ofNat]; omega

/-- The place of a register, as bounds on its number. -/
theorem registerPlace_bounds {r : AddrMap} {a : Addr} (h : r.registerPlace a = true) :
    0xe000 ≤ a.toNat ∧ (a.toNat < 0xff10 ∨ 0xff27 ≤ a.toNat) ∧ (a.toNat < 0xff30 ∨ 0xff40 ≤ a.toNat) ∧
      (a.toNat < r.oam.toNat ∨ r.oam.toNat + 160 ≤ a.toNat) := by
  simp only [AddrMap.registerPlace, inSoundWindows, AddrMap.inOam, oamLength, Bool.and_eq_true, decide_eq_true_eq, Bool.not_eq_true',
    Bool.or_eq_false_iff, within_false_iff] at h
  omega

/-- Every named register of a well-formed map lies where R8 lets it. -/
theorem AddrMap.wf_bounds {r : AddrMap} (h : r.wf = true) {a : Addr} (ha : a ∈ r.toList) :
    0xe000 ≤ a.toNat ∧ (a.toNat < 0xff10 ∨ 0xff27 ≤ a.toNat) ∧ (a.toNat < 0xff30 ∨ 0xff40 ≤ a.toNat) ∧
      (a.toNat < r.oam.toNat ∨ r.oam.toNat + 160 ≤ a.toNat) := registerPlace_bounds (AddrMap.wf_place h ha)

/-- An address where no register can lie has no named register in a well-formed map. -/
theorem AddrMap.wf_not_mem {r : AddrMap} (h : r.wf = true) {a : Addr} (ha : r.registerPlace a = false) : a ∉ r.toList := by
  intro hm
  rw [AddrMap.wf_place h hm] at ha
  exact Bool.noConfusion ha

/-- An address that is no named register and lies in no sound window has no dispatcher row. -/
theorem ioRow_plain {r : AddrMap} {a : Addr} (hm : a ∉ r.toList) (hs : inSoundWindows a = false) :
    ioRow r a = .plain := by
  simp only [AddrMap.toList, List.mem_cons, List.not_mem_nil, or_false, not_or] at hm
  simp only [inSoundWindows, Bool.or_eq_false_iff] at hs
  obtain ⟨h1, h2, h3, h4, h5, h6, h7, h8, h9, h10, h11, h12, h13, h14⟩ := hm
  simp [ioRow, h1, h2, h3, h4, h5, h6, h7, h8, h9, h10, h11, h12, h13, h14, hs.1, hs.2]

/-- The object-attribute table has no dispatcher row (R191). -/
theorem ioRow_oam {r : AddrMap} (h : r.wf = true) {a : Addr} (ha : r.inOam a = true) : ioRow r a = .plain := by
  have ho := oamPlace_bounds (AddrMap.wf_oamPlace h)
  refine ioRow_plain (AddrMap.wf_not_mem h (by simp [AddrMap.registerPlace, ha])) ?_
  · rw [AddrMap.inOam, within_iff, oamLength] at ha
    simp only [inSoundWindows, Bool.or_eq_false_iff, within_false_iff]; omega

/-- Below `0xe000` there is no dispatcher row (R191). -/
theorem ioRow_low {r : AddrMap} (h : r.wf = true) {a : Addr} (ha : a.toNat < 0xe000) : ioRow r a = .plain := by
  refine ioRow_plain (AddrMap.wf_not_mem h ?_) ?_
  · simp [AddrMap.registerPlace]; omega
  · simp only [inSoundWindows, Bool.or_eq_false_iff, within_false_iff]; omega

/-- Each named register of a well-formed map has its own dispatcher row (R200); so no two of them are one address. -/
theorem ioRow_registers {r : AddrMap} (h : r.wf = true) :
    ioRow r r.lcdc = .lcdc ∧ ioRow r r.stat = .stat ∧ ioRow r r.bgpi = .bgpi ∧ ioRow r r.bgpd = .bgpd ∧
    ioRow r r.obpi = .obpi ∧ ioRow r r.obpd = .obpd ∧ ioRow r r.vbk = .vbk ∧ ioRow r r.svbk = .svbk ∧
    ioRow r r.dma = .dma ∧ ioRow r r.hdma1 = .hdma1 ∧ ioRow r r.hdma2 = .hdma2 ∧ ioRow r r.hdma3 = .hdma3 ∧
    ioRow r r.hdma4 = .hdma4 ∧ ioRow r r.hdma5 = .hdma5 := by
  have hn := AddrMap.wf_nodup h
  have hr := List.nodup_reverse.mpr hn
  have place : ∀ a ∈ r.toList, within 0xff10 0xff27 a = false ∧ within 0xff30 0xff40 a = false := by
    intro a ha
    have := AddrMap.wf_bounds h ha
    simp only [within_false_iff]; omega
  simp only [AddrMap.toList, List.nodup_cons, List.mem_cons, List.not_mem_nil, or_false, not_or, not_false_eq_true,
    List.nodup_nil, and_true] at hn
  simp only [AddrMap.toList, List.reverse_cons, List.reverse_nil, List.nil_append, List.cons_append, List.nodup_cons,
    List.mem_cons, List.not_mem_nil, or_false, not_or, not_false_eq_true, List.nodup_nil, and_true] at hr
  simp only [AddrMap.toList, List.forall_mem_cons, List.not_mem_nil, false_imp_iff, implies_true, and_true] at place
  refine ⟨?_, ?_, ?_, ?_, ?_, ?_, ?_, ?_, ?_, ?_, ?_, ?_, ?_, ?_⟩ <;> simp [ioRow, hn, hr, place]

theorem ioRow_lcdc {r : AddrMap} (h : r.wf = true) : ioRow r r.lcdc = .lcdc := (ioRow_registers h).1
theorem ioRow_stat {r : AddrMap} (h : r.wf = true) : ioRow r r.stat = .stat := (ioRow_registers h).2.1
theorem ioRow_bgpi {r : AddrMap} (h : r.wf = true) : ioRow r r.bgpi = .bgpi := (ioRow_registers h).2.2.1
theorem ioRow_bgpd {r : AddrMap} (h : r.wf = true) : ioRow r r.bgpd = .bgpd := (ioRow_registers h).2.2.2.1
theorem ioRow_obpi {r : AddrMap} (h : r.wf = true) : ioRow r r.obpi = .obpi := (ioRow_registers h).2.2.2.2.1
theorem ioRow_obpd {r : AddrMap} (h : r.wf = true) : ioRow r r.obpd = .obpd := (ioRow_registers h).2.2.2.2.2.1
theorem ioRow_vbk {r : AddrMap} (h : r.wf = true) : ioRow r r.vbk = .vbk := (ioRow_registers h).2.2.2.2.2.2.1
theorem ioRow_svbk {r : AddrMap} (h : r.wf = true) : ioRow r r.svbk = .svbk := (ioRow_registers h).2.2.2.2.2.2.2.1
theorem ioRow_dma {r : AddrMap} (h : r.wf = true) : ioRow r r.dma = .dma := (ioRow_registers h).2.2.2.2.2.2.2.2.1
theorem ioRow_hdma1 {r : AddrMap} (h : r.wf = true) : ioRow r r.hdma1 = .hdma1 := (ioRow_registers h).2.2.2.2.2.2.2.2.2.1
theorem ioRow_hdma2 {r : AddrMap} (h : r.wf = true) : ioRow r r.hdma2 = .hdma2 := (ioRow_registers h).2.2.2.2.2.2.2.2.2.2.1
theorem ioRow_hdma3 {r : AddrMap} (h : r.wf = true) : ioRow r r.hdma3 = .hdma3 := (ioRow_registers h).2.2.2.2.2.2.2.2.2.2.2.1
theorem ioRow_hdma4 {r : AddrMap} (h : r.wf = true) : ioRow r r.hdma4 = .hdma4 := (ioRow_registers h).2.2.2.2.2.2.2.2.2.2.2.2.1
theorem ioRow_hdma5 {r : AddrMap} (h : r.wf = true) : ioRow r r.hdma5 = .hdma5 := (ioRow_registers h).2.2.2.2.2.2.2.2.2.2.2.2.2

/-- Addresses of different dispatcher rows are different. -/
theorem ne_of_ioRow {r : AddrMap} {a b : Addr} (h : ioRow r a ≠ ioRow r b) : a ≠ b := fun e => h (e ▸ rfl)

/-! ## Where the classifications lead, by address -/

theorem regionW_cart {m : Mode} {a : Addr} (h : a.toNat ≤ 0x7fff) : regionW m a = .cart := by simp [regionW, h]

theorem regionW_vram {m : Mode} {a : Addr} (h : within 0x8000 0xa000 a = true) : regionW m a = .vram := by
  have := (within_iff _ _ _).mp h
  have hc : ¬ a.toNat ≤ 0x7fff := by omega
  simp [regionW, hc, h]

theorem regionW_window {m : Mode} {a : Addr} (h : within 0xa000 0xc000 a = true) :
    regionW m a = if m.rtcSel = 0 then .eram else .rtc := by
  have := (within_iff _ _ _).mp h
  have hc : ¬ a.toNat ≤ 0x7fff := by omega
  have hv : within 0x8000 0xa000 a = false := by rw [within_false_iff]; omega
  simp [regionW, hc, hv, h]

theorem regionW_wramx {m : Mode} {a : Addr} (h : within 0xd000 0xe000 a = true) (hb : m.wramBanked = true) :
    regionW m a = .wramx := by
  have := (within_iff _ _ _).mp h
  have hc : ¬ a.toNat ≤ 0x7fff := by omega
  have hv : within 0x8000 0xa000 a = false := by rw [within_false_iff]; omega
  have he : within 0xa000 0xc000 a = false := by rw [within_false_iff]; omega
  simp [regionW, hc, hv, he, h, hb]

theorem regionW_flat {m : Mode} {a : Addr} (h : 0xc000 ≤ a.toNat) (hb : (m.wramBanked && within 0xd000 0xe000 a) = false) :
    regionW m a = .flat := by
  have hc : ¬ a.toNat ≤ 0x7fff := by omega
  have hv : within 0x8000 0xa000 a = false := by rw [within_false_iff]; omega
  have he : within 0xa000 0xc000 a = false := by rw [within_false_iff]; omega
  simp [regionW, hc, hv, he, hb]

theorem regionW_high {m : Mode} {a : Addr} (h : 0xe000 ≤ a.toNat) : regionW m a = .flat := by
  apply regionW_flat (by omega)
  have : within 0xd000 0xe000 a = false := by rw [within_false_iff]; omega
  simp [this]

theorem regionR_romx {m : Mode} {a : Addr} (h : within 0x4000 0x8000 a = true) : regionR m a = .romx := by
  simp [regionR, h]

theorem regionR_vram {m : Mode} {a : Addr} (h : within 0x8000 0xa000 a = true) : regionR m a = .vram := by
  have := (within_iff _ _ _).mp h
  have hx : within 0x4000 0x8000 a = false := by rw [within_false_iff]; omega
  simp [regionR, hx, h]

theorem regionR_window {m : Mode} {a : Addr} (h : within 0xa000 0xc000 a = true) :
    regionR m a = if m.rtcSel = 0 then .eram else .rtc := by
  have := (within_iff _ _ _).mp h
  have hx : within 0x4000 0x8000 a = false := by rw [within_false_iff]; omega
  have hv : within 0x8000 0xa000 a = false := by rw [within_false_iff]; omega
  simp [regionR, hx, hv, h]

theorem regionR_wramx {m : Mode} {a : Addr} (h : within 0xd000 0xe000 a = true) (hb : m.wramBanked = true) :
    regionR m a = .wramx := by
  have := (within_iff _ _ _).mp h
  have hx : within 0x4000 0x8000 a = false := by rw [within_false_iff]; omega
  have hv : within 0x8000 0xa000 a = false := by rw [within_false_iff]; omega
  have he : within 0xa000 0xc000 a = false := by rw [within_false_iff]; omega
  simp [regionR, hx, hv, he, h, hb]

theorem regionR_snd {m : Mode} {a : Addr} (h : inSoundWindows a = true) : regionR m a = .snd := by
  have hs := h
  simp only [inSoundWindows, Bool.or_eq_true, within_iff] at hs
  have hx : within 0x4000 0x8000 a = false := by rw [within_false_iff]; omega
  have hv : within 0x8000 0xa000 a = false := by rw [within_false_iff]; omega
  have he : within 0xa000 0xc000 a = false := by rw [within_false_iff]; omega
  have hb : within 0xd000 0xe000 a = false := by rw [within_false_iff]; omega
  simp only [inSoundWindows] at h
  simp only [regionR, hx, hv, he, hb, h, Bool.and_false, if_false, if_true, Bool.false_eq_true]

/-- Where no banked window and no sound window claims a read, the four named registers of R61 are tested in order. -/
theorem regionR_rest {m : Mode} {a : Addr} (h : within 0x4000 0xc000 a = false)
    (hb : (m.wramBanked && within 0xd000 0xe000 a) = false) (hs : inSoundWindows a = false) :
    regionR m a =
      if a == m.regs.lcdc then .lcdc else if a == m.regs.stat then .stat
      else if a == m.regs.bgpd then .bgpd else if a == m.regs.obpd then .obpd else .flat := by
  have := (within_false_iff _ _ _).mp h
  have hx : within 0x4000 0x8000 a = false := by rw [within_false_iff]; omega
  have hv : within 0x8000 0xa000 a = false := by rw [within_false_iff]; omega
  have he : within 0xa000 0xc000 a = false := by rw [within_false_iff]; omega
  simp only [inSoundWindows] at hs
  simp only [regionR, hx, hv, he, hb, hs, if_false, Bool.false_eq_true]

/-- Every address of the object-attribute table is plain flat storage in every mode (R191). -/
theorem regionW_oam {m : Mode} (hr : m.regs.wf = true) {a : Addr} (ha : m.regs.inOam a = true) : regionW m a = .flat := by
  have ho := oamPlace_bounds (AddrMap.wf_oamPlace hr)
  rw [AddrMap.inOam, within_iff, oamLength] at ha
  apply regionW_flat (by omega)
  have : within 0xd000 0xe000 a = false := by rw [within_false_iff]; omega
  simp [this]

/-- A write into the object-attribute table is a plain flat store in every mode (R191). -/
theorem decodeWrite_oam {m : Mode} (hr : m.regs.wf = true) {a : Addr} (ha : m.regs.inOam a = true) (v : Byte) :
    decodeWrite m a v = .wmFlat a v := by
  simp [decodeWrite, regionW_oam hr ha, decodeFlatStore, ioRow_oam hr ha]

/-- A read from the object-attribute table is a flat read in every mode. -/
theorem regionR_oam {m : Mode} (hr : m.regs.wf = true) {a : Addr} (ha : m.regs.inOam a = true) : regionR m a = .flat := by
  have ho := oamPlace_bounds (AddrMap.wf_oamPlace hr)
  have hn : a ∉ m.regs.toList := AddrMap.wf_not_mem hr (by simp [AddrMap.registerPlace, ha])
  rw [AddrMap.inOam, within_iff, oamLength] at ha
  rw [regionR_rest]
  · simp only [AddrMap.toList, List.mem_cons, List.not_mem_nil, or_false, not_or] at hn
    simp [hn]
  · rw [within_false_iff]; omega
  · have : within 0xd000 0xe000 a = false := by rw [within_false_iff]; omega
    simp [this]
  · simp only [inSoundWindows, Bool.or_eq_false_iff, within_false_iff]; omega

/-- A named register of a well-formed map is read past every window. -/
theorem regionR_register {m : Mode} (hr : m.regs.wf = true) {a : Addr} (ha : a ∈ m.regs.toList) :
    regionR m a =
      if a == m.regs.lcdc then .lcdc else if a == m.regs.stat then .stat
      else if a == m.regs.bgpd then .bgpd else if a == m.regs.obpd then .obpd else .flat := by
  have hb := AddrMap.wf_bounds hr ha
  apply regionR_rest
  · rw [within_false_iff]; omega
  · have : within 0xd000 0xe000 a = false := by rw [within_false_iff]; omega
    simp [this]
  · simp only [inSoundWindows, Bool.or_eq_false_iff, within_false_iff]; omega

/-- A write to a named register of a well-formed map is a flat store with the register's row. -/
theorem decodeWrite_register {m : Mode} (hr : m.regs.wf = true) {a : Addr} (ha : a ∈ m.regs.toList) (v : Byte) :
    decodeWrite m a v = decodeFlatStore m a v := by
  have hb := AddrMap.wf_bounds hr ha
  simp [decodeWrite, regionW_high hb.1]

/-- A write in a sound window, of which no named register of a well-formed map is an address (R45). -/
theorem ioRow_sound {r : AddrMap} (h : r.wf = true) {a : Addr} (ha : inSoundWindows a = true) :
    ioRow r a = if within 0xff10 0xff27 a then .sndReg else .sndWave := by
  have hn : a ∉ r.toList := AddrMap.wf_not_mem h (by simp [AddrMap.registerPlace, ha])
  simp only [AddrMap.toList, List.mem_cons, List.not_mem_nil, or_false, not_or] at hn
  obtain ⟨h1, h2, h3, h4, h5, h6, h7, h8, h9, h10, h11, h12, h13, h14⟩ := hn
  simp only [inSoundWindows, Bool.or_eq_true] at ha
  simp only [ioRow, beq_iff_eq, h1, h2, h10, h11, h12, h13, if_false]
  split
  · rfl
  · rename_i hf
    have : within 0xff30 0xff40 a = true := by
      rcases ha with h | h
      · exact absurd h hf
      · exact h
    simp [this]

end Sys2Proof
end

