-- ==== Sys2Proof/Laws/Memory.lean ====
section
/-! SUPPORT. The laws of memory: read after write, that every write keeps the canonical form, and that a later write to a key
hides an earlier one. -/
namespace Sys2Proof.Machine.Memory

@[simp] theorem read_nil (k : Nat) : read [] k = unlisted := rfl

theorem read_cons (j : Nat) (b : Byte) (m : Memory) (k : Nat) :
    read ((j, b) :: m) k = if j = k then b else read m k := rfl

theorem read_erase (m : Memory) (k j : Nat) : read (erase k m) j = if j = k then unlisted else read m j := by
  induction m with
  | nil => simp [erase]
  | cons c m ih =>
    obtain ⟨i, b⟩ := c
    by_cases hik : i = k
    · subst hik
      rw [erase, if_pos rfl, ih, read_cons]
      by_cases hji : j = i
      · simp [hji]
      · simp [hji, Ne.symm hji]
    · rw [erase, if_neg hik, read_cons, read_cons, ih]
      by_cases hij : i = j
      · subst hij; simp [hik]
      · simp [hij]

theorem read_insert (m : Memory) (k : Nat) (v : Byte) (j : Nat) :
    read (insert k v (erase k m)) j = if j = k then v else read m j := by
  have absent : ∀ l : Memory, (∀ i, read (erase k l) i = if i = k then unlisted else read l i) := fun l i => read_erase l k i
  suffices h : ∀ l : Memory, (∀ c ∈ l, c.1 ≠ k) → read (insert k v l) j = if j = k then v else read l j by
    rw [h, absent]
    · by_cases hj : j = k <;> simp [hj]
    · clear absent h
      induction m with
      | nil => simp [erase]
      | cons c m ih =>
        obtain ⟨i, b⟩ := c
        by_cases hik : i = k
        · rw [erase, if_pos hik]; exact ih
        · rw [erase, if_neg hik]
          intro c hc
          rcases List.mem_cons.mp hc with rfl | hc
          · exact hik
          · exact ih c hc
  intro l hl
  induction l with
  | nil => by_cases hj : j = k <;> simp [insert, read_cons, hj, Ne.symm]
  | cons c l ih =>
    obtain ⟨i, b⟩ := c
    have hik : i ≠ k := hl (i, b) (by simp)
    by_cases hlt : k < i
    · rw [insert, if_pos hlt, read_cons]
      by_cases hj : j = k
      · simp [hj]
      · simp [hj, Ne.symm hj]
    · rw [insert, if_neg hlt, read_cons, read_cons, ih (fun c hc => hl c (by simp [hc]))]
      by_cases hij : i = j
      · subst hij; simp [hik]
      · simp [hij]

/-- READ AFTER WRITE: the written key reads as the byte, every other key as before. It holds of every list. -/
theorem read_write (m : Memory) (k : Nat) (v : Byte) (j : Nat) :
    read (write m k v) j = if j = k then v else read m j := by
  unfold write
  split
  · rename_i hv; rw [read_erase, hv]
  · exact read_insert m k v j

@[simp] theorem read_write_same (m : Memory) (k : Nat) (v : Byte) : read (write m k v) k = v := by
  simp [read_write]

theorem read_write_other (m : Memory) {k j : Nat} (v : Byte) (h : j ≠ k) : read (write m k v) j = read m j := by
  simp [read_write, h]

theorem wfFrom_mono {size lo lo' : Nat} {m : Memory} (hlo : lo' ≤ lo) (h : wfFrom size lo m = true) :
    wfFrom size lo' m = true := by
  cases m with
  | nil => rfl
  | cons c m =>
    obtain ⟨i, b⟩ := c
    simp only [wfFrom, Bool.and_eq_true, decide_eq_true_eq] at h ⊢
    exact ⟨⟨⟨by omega, h.1.1.2⟩, h.1.2⟩, h.2⟩

theorem wfFrom_erase {size lo : Nat} (k : Nat) {m : Memory} (h : wfFrom size lo m = true) :
    wfFrom size lo (erase k m) = true := by
  induction m generalizing lo with
  | nil => rfl
  | cons c m ih =>
    obtain ⟨i, b⟩ := c
    simp only [wfFrom, Bool.and_eq_true, decide_eq_true_eq] at h
    unfold erase
    split
    · exact wfFrom_mono (by omega) (ih h.2)
    · simp only [wfFrom, Bool.and_eq_true, decide_eq_true_eq]
      exact ⟨h.1, ih h.2⟩

theorem wfFrom_insert {size lo k : Nat} {v : Byte} {m : Memory} (hlo : lo ≤ k) (hk : k < size) (hv : v ≠ unlisted)
    (h : wfFrom size lo m = true) : wfFrom size lo (insert k v (erase k m)) = true := by
  induction m generalizing lo with
  | nil => simp [erase, insert, wfFrom, hlo, hk, hv]
  | cons c m ih =>
    obtain ⟨i, b⟩ := c
    simp only [wfFrom, Bool.and_eq_true, decide_eq_true_eq] at h
    unfold erase
    split
    · rename_i hik
      subst hik
      -- the rest lists only larger keys, so erasing finds nothing and the cell goes first
      have hrest : wfFrom size (i + 1) (erase i m) = true := wfFrom_erase i h.2
      generalize erase i m = l at hrest
      cases l with
      | nil => simp [insert, wfFrom, hlo, hk, hv]
      | cons d l =>
        obtain ⟨n, e⟩ := d
        have hn := hrest
        simp only [wfFrom, Bool.and_eq_true, decide_eq_true_eq] at hn
        rw [insert, if_pos (by omega)]
        simp only [wfFrom, Bool.and_eq_true, decide_eq_true_eq]
        exact ⟨⟨⟨hlo, hk⟩, hv⟩, hn⟩
    · rename_i hik
      unfold insert
      split
      · rename_i hlt
        simp only [wfFrom, Bool.and_eq_true, decide_eq_true_eq]
        exact ⟨⟨⟨hlo, hk⟩, hv⟩, ⟨⟨by omega, h.1.1.2⟩, h.1.2⟩, wfFrom_erase k h.2⟩
      · simp only [wfFrom, Bool.and_eq_true, decide_eq_true_eq]
        exact ⟨h.1, ih (by omega) h.2⟩

/-- EVERY WRITE KEEPS THE CANONICAL FORM. -/
theorem wf_write {size k : Nat} {m : Memory} (v : Byte) (hk : k < size) (h : wf size m = true) :
    wf size (write m k v) = true := by
  unfold write
  split
  · exact wfFrom_erase k h
  · rename_i hv; exact wfFrom_insert (Nat.zero_le k) hk hv h

@[simp] theorem wf_nil (size : Nat) : wf size [] = true := rfl

theorem erase_erase (k : Nat) (m : Memory) : erase k (erase k m) = erase k m := by
  induction m with
  | nil => rfl
  | cons c m ih =>
    obtain ⟨i, b⟩ := c
    by_cases hik : i = k
    · rw [erase, if_pos hik, ih]
    · rw [erase, if_neg hik, erase, if_neg hik, ih]

theorem erase_insert (k : Nat) (v : Byte) (m : Memory) : erase k (insert k v m) = erase k m := by
  induction m with
  | nil => simp [insert, erase]
  | cons c m ih =>
    obtain ⟨i, b⟩ := c
    by_cases hlt : k < i
    · rw [insert, if_pos hlt, erase, if_pos rfl]
    · rw [insert, if_neg hlt]
      by_cases hik : i = k
      · rw [erase, if_pos hik, ih, erase, if_pos hik]
      · rw [erase, if_neg hik, ih, erase, if_neg hik]

/-- A later write to a key hides an earlier one: the two memories are the same list. -/
@[simp] theorem write_write_same (m : Memory) (k : Nat) (u v : Byte) : write (write m k u) k v = write m k v := by
  have h : erase k (write m k u) = erase k m := by
    unfold write
    split
    · exact erase_erase k m
    · rw [erase_insert, erase_erase]
  show (if v = unlisted then erase k (write m k u) else insert k v (erase k (write m k u))) = _
  rw [h]
  rfl

/-- A key below the canonical form's first key reads as unlisted. -/
theorem read_of_wfFrom_lt {size lo k : Nat} {m : Memory} (h : wfFrom size lo m = true) (hk : k < lo) :
    read m k = unlisted := by
  induction m generalizing lo with
  | nil => rfl
  | cons c m ih =>
    obtain ⟨i, b⟩ := c
    simp only [wfFrom, Bool.and_eq_true, decide_eq_true_eq] at h
    rw [read_cons, if_neg (by omega)]
    exact ih h.2 (by omega)

/-- EQUAL MEMORIES ARE EQUAL LISTS: two canonical forms that read alike everywhere are the same list. -/
theorem eq_of_read_eq {size lo : Nat} {m n : Memory} (hm : wfFrom size lo m = true) (hn : wfFrom size lo n = true)
    (h : ∀ k, read m k = read n k) : m = n := by
  induction m generalizing n lo with
  | nil =>
    cases n with
    | nil => rfl
    | cons d n =>
      obtain ⟨j, e⟩ := d
      simp only [wfFrom, Bool.and_eq_true, decide_eq_true_eq] at hn
      have := h j
      rw [read_cons, if_pos rfl, read_nil] at this
      exact absurd this.symm hn.1.2
  | cons c m ih =>
    obtain ⟨i, b⟩ := c
    have hm' := hm
    simp only [wfFrom, Bool.and_eq_true, decide_eq_true_eq] at hm'
    cases n with
    | nil =>
      have := h i
      rw [read_cons, if_pos rfl, read_nil] at this
      exact absurd this hm'.1.2
    | cons d n =>
      obtain ⟨j, e⟩ := d
      have hn' := hn
      simp only [wfFrom, Bool.and_eq_true, decide_eq_true_eq] at hn'
      have hij : i = j := by
        rcases Nat.lt_trichotomy i j with hlt | heq | hgt
        · have := h i
          rw [read_cons, if_pos rfl, read_cons, if_neg (by omega), read_of_wfFrom_lt hn'.2 (by omega)] at this
          exact absurd this hm'.1.2
        · exact heq
        · have := h j
          rw [read_cons, if_neg (by omega), read_cons, if_pos rfl, read_of_wfFrom_lt hm'.2 (by omega)] at this
          exact absurd this.symm hn'.1.2
      subst hij
      have hbe : b = e := by simpa [read_cons] using h i
      subst hbe
      congr 1
      refine ih hm'.2 hn'.2 fun k => ?_
      by_cases hk : i = k
      · subst hk
        rw [read_of_wfFrom_lt hm'.2 (by omega), read_of_wfFrom_lt hn'.2 (by omega)]
      · simpa [read_cons, hk] using h k

end Sys2Proof.Machine.Memory
end

