-- ==== Sys2Proof/Laws/Operands.lean ====
section
/-! SUPPORT. Every operand form and every flag as a number: what each field of a byte says, in the words of the rules
R94 to R101. -/
namespace Sys2Proof.Machine

/-- Keeping the low `k` bits. -/
theorem and_low (n k : Nat) (x : BitVec n) (m : BitVec n) (hm : m.toNat = 2 ^ k - 1) : (x &&& m).toNat = x.toNat % 2 ^ k := by
  rw [BitVec.toNat_and, hm, Nat.and_two_pow_sub_one_eq_mod]

/-- Clearing the low `k` bits. -/
theorem and_high {n k : Nat} (x : BitVec n) (m : BitVec n) (hm : m = BitVec.allOnes n <<< k) : (x &&& m).toNat = x.toNat / 2 ^ k * 2 ^ k := by
  subst hm
  apply Nat.eq_of_testBit_eq
  intro i
  rw [Nat.testBit_mul_two_pow, BitVec.testBit_toNat, BitVec.getLsbD_and, BitVec.getLsbD_shiftLeft, BitVec.getLsbD_allOnes,  Nat.testBit_div_two_pow, BitVec.testBit_toNat]
  by_cases hi : i < k
  · simp [hi, Nat.not_le.mpr hi]
  · rw [show i - k + k = i by omega]
    by_cases hn : i < n
    · have : i - k < n := by omega
      simp [hi, hn, this, Nat.not_lt.mp hi]
    · simp [BitVec.getLsbD_of_ge x i (by omega)]

/-- Fields that do not overlap add. -/
theorem or_toNat {n : Nat} (k : Nat) (x y : BitVec n) (hx : x.toNat % 2 ^ k = 0) (hy : y.toNat < 2 ^ k) :
    (x ||| y).toNat = x.toNat + y.toNat := by
  obtain ⟨q, hq⟩ := Nat.dvd_of_mod_eq_zero hx
  rw [BitVec.toNat_or, hq, Nat.two_pow_add_eq_or_of_lt hy]

theorem mbc1RomCandidate_toNat (r : BitVec 7) (v : Byte) :
    (mbc1RomCandidate r v).toNat = r.toNat / 32 * 32 + (if v.toNat = 0 then 1 else v.toNat % 32) := by
  have hr := r.isLt
  have h1 : (r &&& 0x60).toNat = r.toNat / 32 * 32 := and_high (k := 5) r 0x60 (by decide)
  have hd : ∀ d : Byte, ((d &&& 0x1f).setWidth 7 : BitVec 7).toNat = d.toNat % 32 := by
    intro d
    rw [BitVec.toNat_setWidth, and_low 8 5 d 0x1f (by decide)]; omega
  unfold mbc1RomCandidate
  rw [or_toNat 5 _ _ (by rw [h1]; omega) (by rw [hd]; omega), h1, hd]
  by_cases hv : v = 0
  · subst hv; simp
  · have hv' : v.toNat ≠ 0 := fun h => hv (BitVec.eq_of_toNat_eq (by simpa using h))
    rw [if_neg (show ¬ (v == 0) = true by simpa using hv), if_neg hv']

theorem mbc3RomCandidate_toNat (v : Byte) :
    (mbc3RomCandidate v).toNat = if v.toNat % 128 = 0 then 1 else v.toNat % 128 := by
  have e : (v.extractLsb' 0 7 : BitVec 7).toNat = v.toNat % 128 := by simp [BitVec.extractLsb'_toNat]
  have hz : (v.extractLsb' 0 7 : BitVec 7) = 0 ↔ v.toNat % 128 = 0 := by rw [← BitVec.toNat_inj, e]; simp
  unfold mbc3RomCandidate
  by_cases h : v.toNat % 128 = 0
  · simp [hz.mpr h, h]
  · simp only [beq_iff_eq, hz, h, if_false, e]

theorem mbc1HighCandidate_toNat (r : BitVec 7) (v : Byte) :
    (mbc1HighCandidate r v).toNat = v.toNat % 4 * 32 + r.toNat % 32 := by
  have h1 : (r &&& 0x1f).toNat = r.toNat % 32 := and_low 7 5 r 0x1f (by decide)
  have h2 : ((v &&& 0x03).setWidth 7 <<< 5 : BitVec 7).toNat = v.toNat % 4 * 32 := by
    have := and_low 8 2 v 0x03 (by decide)
    rw [BitVec.toNat_shiftLeft, BitVec.toNat_setWidth, this, Nat.shiftLeft_eq]; omega
  unfold mbc1HighCandidate
  rw [or_toNat 5 _ _ (by rw [h2]; omega) (by rw [h1]; omega), h1, h2]

theorem paletteIndex_toNat (v : Byte) : (paletteIndex v).toNat = v.toNat % 64 := by
  simp [paletteIndex, BitVec.extractLsb'_toNat]

theorem vramBankOf_toNat (v : Byte) : (vramBankOf v).toNat = v.toNat % 2 := by
  simp [vramBankOf, BitVec.extractLsb'_toNat]

theorem wramBankOf_toNat (v : Byte) : (wramBankOf v).toNat = if v.toNat % 8 = 0 then 1 else v.toNat % 8 := by
  have e : (v.extractLsb' 0 3 : BitVec 3).toNat = v.toNat % 8 := by simp [BitVec.extractLsb'_toNat]
  have hz : (v.extractLsb' 0 3 : BitVec 3) = 0 ↔ v.toNat % 8 = 0 := by rw [← BitVec.toNat_inj, e]; simp
  unfold wramBankOf
  by_cases h : v.toNat % 8 = 0
  · simp [hz.mpr h, h]
  · simp only [beq_iff_eq, hz, h, if_false, e]

theorem incFlag_eq (v : Byte) : incFlag v = decide (128 ≤ v.toNat) := by
  have := v.isLt
  rw [incFlag, BitVec.getLsbD, Nat.testBit_eq_decide_div_mod_eq, decide_eq_decide]; omega

theorem nextIndex_toNat (b : Bool) (i : BitVec 6) : (nextIndex b i).toNat = if b then (i.toNat + 1) % 64 else i.toNat := by
  cases b <;> simp [nextIndex, BitVec.toNat_add]

theorem oamSource_toNat (v : Byte) : (oamSource v).toNat = v.toNat * 256 := by
  have := v.isLt
  rw [oamSource, BitVec.toNat_append]; simp [Nat.shiftLeft_eq]

theorem append_toNat (h l : Byte) : (h ++ l : BitVec 16).toNat = h.toNat * 256 + l.toNat := by
  rw [BitVec.toNat_append, ← Nat.shiftLeft_add_eq_or_of_lt l.isLt, Nat.shiftLeft_eq]

theorem videoSource_toNat (h1 h2 : Byte) : (videoSource h1 h2).toNat = h1.toNat * 256 + h2.toNat / 16 * 16 := by
  rw [videoSource, append_toNat, and_high (k := 4) h2 0xf0 (by decide)]; rfl

theorem videoDest_toNat (h3 h4 : Byte) : (videoDest h3 h4).toNat = 0x8000 + h3.toNat % 32 * 256 + h4.toNat := by
  have e : (h3 &&& 0x1f).toNat = h3.toNat % 32 := and_low 8 5 h3 0x1f (by decide)
  have : ((h3 &&& 0x1f) ||| 0x80).toNat = 0x80 + h3.toNat % 32 := by
    rw [BitVec.or_comm, or_toNat 5 _ _ (by decide) (by rw [e]; omega), e]; rfl
  rw [videoDest, append_toNat, this]; omega

theorem videoLength_eq (c : Byte) : videoLength c = (c.toNat % 128 + 1) * 16 := by
  rw [videoLength, and_low 8 7 c 0x7f (by decide)]; rfl

theorem modeFlag_eq (v : Byte) : modeFlag v = if v.toNat = 0 then some false else if v.toNat = 1 then some true else none := by
  have h : ∀ n : Nat, n < 256 → (v = BitVec.ofNat 8 n ↔ v.toNat = n) := by
    intro n hn; rw [← BitVec.toNat_inj]; simp [Nat.mod_eq_of_lt hn]
  have h0 := h 0 (by omega); have h1 := h 1 (by omega)
  simp only [modeFlag, beq_iff_eq]
  simp only [show (0x00 : Byte) = BitVec.ofNat 8 0 from rfl, show (0x01 : Byte) = BitVec.ofNat 8 1 from rfl, h0, h1]

/-! ## A banked cell lies in its array (R67) -/

theorem romIndex_lt {n : Nat} {b : BitVec 7} {a : Addr} (ha : within 0x4000 0x8000 a = true) (hb : b.toNat < n) :
    romIndex b a < n * 0x4000 := by
  have := (within_iff _ _ _).mp ha
  unfold romIndex; omega

theorem vramIndex_lt {b : BitVec 1} {a : Addr} (ha : within 0x8000 0xa000 a = true) : vramIndex b a < 0x4000 := by
  have := (within_iff _ _ _).mp ha
  have := b.isLt
  unfold vramIndex; omega

theorem eramIndex_lt {n : Nat} {b : Byte} {a : Addr} (ha : within 0xa000 0xc000 a = true) (hb : b.toNat < n) :
    eramIndex b a < n * 0x2000 := by
  have := (within_iff _ _ _).mp ha
  unfold eramIndex; omega

theorem wramIndex_lt {b : BitVec 3} {a : Addr} (ha : within 0xd000 0xe000 a = true) : wramIndex b a < 0x8000 := by
  have := (within_iff _ _ _).mp ha
  have := b.isLt
  unfold wramIndex; omega

end Sys2Proof.Machine
end

