-- ==== Sys2Proof/Laws/State.lean ====
section
/-! SUPPORT. One lemma per field of State for each shared update, true by rfl, so that no proof unfolds a record update; and
the mode after each update. -/
namespace Sys2Proof.Machine.State

variable (s : State)

/-! ## `respond` -/

@[simp] theorem respond_cfg (b : Byte) : (s.respond b).cfg = s.cfg := rfl
@[simp] theorem respond_romBank (b : Byte) : (s.respond b).romBank = s.romBank := rfl
@[simp] theorem respond_ramBank (b : Byte) : (s.respond b).ramBank = s.ramBank := rfl
@[simp] theorem respond_bankMode (b : Byte) : (s.respond b).bankMode = s.bankMode := rfl
@[simp] theorem respond_rtcSel (b : Byte) : (s.respond b).rtcSel = s.rtcSel := rfl
@[simp] theorem respond_wramBank (b : Byte) : (s.respond b).wramBank = s.wramBank := rfl
@[simp] theorem respond_vramBank (b : Byte) : (s.respond b).vramBank = s.vramBank := rfl
@[simp] theorem respond_bgIdx (b : Byte) : (s.respond b).bgIdx = s.bgIdx := rfl
@[simp] theorem respond_bgInc (b : Byte) : (s.respond b).bgInc = s.bgInc := rfl
@[simp] theorem respond_obIdx (b : Byte) : (s.respond b).obIdx = s.obIdx := rfl
@[simp] theorem respond_obInc (b : Byte) : (s.respond b).obInc = s.obInc := rfl
@[simp] theorem respond_lcdc (b : Byte) : (s.respond b).lcdc = s.lcdc := rfl
@[simp] theorem respond_stat (b : Byte) : (s.respond b).stat = s.stat := rfl
@[simp] theorem respond_flat (b : Byte) : (s.respond b).flat = s.flat := rfl
@[simp] theorem respond_rom (b : Byte) : (s.respond b).rom = s.rom := rfl
@[simp] theorem respond_eram (b : Byte) : (s.respond b).eram = s.eram := rfl
@[simp] theorem respond_wram (b : Byte) : (s.respond b).wram = s.wram := rfl
@[simp] theorem respond_vram (b : Byte) : (s.respond b).vram = s.vram := rfl
@[simp] theorem respond_bgPal (b : Byte) : (s.respond b).bgPal = s.bgPal := rfl
@[simp] theorem respond_obPal (b : Byte) : (s.respond b).obPal = s.obPal := rfl
@[simp] theorem respond_snd (b : Byte) : (s.respond b).snd = s.snd := rfl
@[simp] theorem respond_rtc (b : Byte) : (s.respond b).rtc = s.rtc := rfl
@[simp] theorem respond_cycles (b : Byte) : (s.respond b).cycles = s.cycles := rfl
@[simp] theorem respond_fault (b : Byte) : (s.respond b).fault = s.fault := rfl
@[simp] theorem respond_response (b : Byte) : (s.respond b).response = some b := rfl
@[simp] theorem respond_inputs (b : Byte) : (s.respond b).inputs = s.inputs := rfl
@[simp] theorem respond_mode (b : Byte) : (s.respond b).mode = s.mode := rfl

/-! ## `complete` -/

@[simp] theorem complete_cfg : (s.complete).cfg = s.cfg := rfl
@[simp] theorem complete_romBank : (s.complete).romBank = s.romBank := rfl
@[simp] theorem complete_ramBank : (s.complete).ramBank = s.ramBank := rfl
@[simp] theorem complete_bankMode : (s.complete).bankMode = s.bankMode := rfl
@[simp] theorem complete_rtcSel : (s.complete).rtcSel = s.rtcSel := rfl
@[simp] theorem complete_wramBank : (s.complete).wramBank = s.wramBank := rfl
@[simp] theorem complete_vramBank : (s.complete).vramBank = s.vramBank := rfl
@[simp] theorem complete_bgIdx : (s.complete).bgIdx = s.bgIdx := rfl
@[simp] theorem complete_bgInc : (s.complete).bgInc = s.bgInc := rfl
@[simp] theorem complete_obIdx : (s.complete).obIdx = s.obIdx := rfl
@[simp] theorem complete_obInc : (s.complete).obInc = s.obInc := rfl
@[simp] theorem complete_lcdc : (s.complete).lcdc = s.lcdc := rfl
@[simp] theorem complete_stat : (s.complete).stat = s.stat := rfl
@[simp] theorem complete_flat : (s.complete).flat = s.flat := rfl
@[simp] theorem complete_rom : (s.complete).rom = s.rom := rfl
@[simp] theorem complete_eram : (s.complete).eram = s.eram := rfl
@[simp] theorem complete_wram : (s.complete).wram = s.wram := rfl
@[simp] theorem complete_vram : (s.complete).vram = s.vram := rfl
@[simp] theorem complete_bgPal : (s.complete).bgPal = s.bgPal := rfl
@[simp] theorem complete_obPal : (s.complete).obPal = s.obPal := rfl
@[simp] theorem complete_snd : (s.complete).snd = s.snd := rfl
@[simp] theorem complete_rtc : (s.complete).rtc = s.rtc := rfl
@[simp] theorem complete_cycles : (s.complete).cycles = s.cycles := rfl
@[simp] theorem complete_fault : (s.complete).fault = s.fault := rfl
@[simp] theorem complete_response : (s.complete).response = none := rfl
@[simp] theorem complete_inputs : (s.complete).inputs = s.inputs := rfl
@[simp] theorem complete_mode : (s.complete).mode = s.mode := rfl

/-! ## `raise` -/

@[simp] theorem raise_cfg (f : Fault) : (s.raise f).cfg = s.cfg := rfl
@[simp] theorem raise_romBank (f : Fault) : (s.raise f).romBank = s.romBank := rfl
@[simp] theorem raise_ramBank (f : Fault) : (s.raise f).ramBank = s.ramBank := rfl
@[simp] theorem raise_bankMode (f : Fault) : (s.raise f).bankMode = s.bankMode := rfl
@[simp] theorem raise_rtcSel (f : Fault) : (s.raise f).rtcSel = s.rtcSel := rfl
@[simp] theorem raise_wramBank (f : Fault) : (s.raise f).wramBank = s.wramBank := rfl
@[simp] theorem raise_vramBank (f : Fault) : (s.raise f).vramBank = s.vramBank := rfl
@[simp] theorem raise_bgIdx (f : Fault) : (s.raise f).bgIdx = s.bgIdx := rfl
@[simp] theorem raise_bgInc (f : Fault) : (s.raise f).bgInc = s.bgInc := rfl
@[simp] theorem raise_obIdx (f : Fault) : (s.raise f).obIdx = s.obIdx := rfl
@[simp] theorem raise_obInc (f : Fault) : (s.raise f).obInc = s.obInc := rfl
@[simp] theorem raise_lcdc (f : Fault) : (s.raise f).lcdc = s.lcdc := rfl
@[simp] theorem raise_stat (f : Fault) : (s.raise f).stat = s.stat := rfl
@[simp] theorem raise_flat (f : Fault) : (s.raise f).flat = s.flat := rfl
@[simp] theorem raise_rom (f : Fault) : (s.raise f).rom = s.rom := rfl
@[simp] theorem raise_eram (f : Fault) : (s.raise f).eram = s.eram := rfl
@[simp] theorem raise_wram (f : Fault) : (s.raise f).wram = s.wram := rfl
@[simp] theorem raise_vram (f : Fault) : (s.raise f).vram = s.vram := rfl
@[simp] theorem raise_bgPal (f : Fault) : (s.raise f).bgPal = s.bgPal := rfl
@[simp] theorem raise_obPal (f : Fault) : (s.raise f).obPal = s.obPal := rfl
@[simp] theorem raise_snd (f : Fault) : (s.raise f).snd = s.snd := rfl
@[simp] theorem raise_rtc (f : Fault) : (s.raise f).rtc = s.rtc := rfl
@[simp] theorem raise_cycles (f : Fault) : (s.raise f).cycles = s.cycles := rfl
@[simp] theorem raise_fault (f : Fault) : (s.raise f).fault = some f := rfl
@[simp] theorem raise_response (f : Fault) : (s.raise f).response = none := rfl
@[simp] theorem raise_inputs (f : Fault) : (s.raise f).inputs = s.inputs := rfl
@[simp] theorem raise_mode (f : Fault) : (s.raise f).mode = s.mode := rfl

/-! ## `putFlat` -/

@[simp] theorem putFlat_cfg (a : Addr) (v : Byte) : (s.putFlat a v).cfg = s.cfg := rfl
@[simp] theorem putFlat_romBank (a : Addr) (v : Byte) : (s.putFlat a v).romBank = s.romBank := rfl
@[simp] theorem putFlat_ramBank (a : Addr) (v : Byte) : (s.putFlat a v).ramBank = s.ramBank := rfl
@[simp] theorem putFlat_bankMode (a : Addr) (v : Byte) : (s.putFlat a v).bankMode = s.bankMode := rfl
@[simp] theorem putFlat_rtcSel (a : Addr) (v : Byte) : (s.putFlat a v).rtcSel = s.rtcSel := rfl
@[simp] theorem putFlat_wramBank (a : Addr) (v : Byte) : (s.putFlat a v).wramBank = s.wramBank := rfl
@[simp] theorem putFlat_vramBank (a : Addr) (v : Byte) : (s.putFlat a v).vramBank = s.vramBank := rfl
@[simp] theorem putFlat_bgIdx (a : Addr) (v : Byte) : (s.putFlat a v).bgIdx = s.bgIdx := rfl
@[simp] theorem putFlat_bgInc (a : Addr) (v : Byte) : (s.putFlat a v).bgInc = s.bgInc := rfl
@[simp] theorem putFlat_obIdx (a : Addr) (v : Byte) : (s.putFlat a v).obIdx = s.obIdx := rfl
@[simp] theorem putFlat_obInc (a : Addr) (v : Byte) : (s.putFlat a v).obInc = s.obInc := rfl
@[simp] theorem putFlat_lcdc (a : Addr) (v : Byte) : (s.putFlat a v).lcdc = s.lcdc := rfl
@[simp] theorem putFlat_stat (a : Addr) (v : Byte) : (s.putFlat a v).stat = s.stat := rfl
@[simp] theorem putFlat_flat (a : Addr) (v : Byte) : (s.putFlat a v).flat = Memory.write s.flat a.toNat v := rfl
@[simp] theorem putFlat_rom (a : Addr) (v : Byte) : (s.putFlat a v).rom = s.rom := rfl
@[simp] theorem putFlat_eram (a : Addr) (v : Byte) : (s.putFlat a v).eram = s.eram := rfl
@[simp] theorem putFlat_wram (a : Addr) (v : Byte) : (s.putFlat a v).wram = s.wram := rfl
@[simp] theorem putFlat_vram (a : Addr) (v : Byte) : (s.putFlat a v).vram = s.vram := rfl
@[simp] theorem putFlat_bgPal (a : Addr) (v : Byte) : (s.putFlat a v).bgPal = s.bgPal := rfl
@[simp] theorem putFlat_obPal (a : Addr) (v : Byte) : (s.putFlat a v).obPal = s.obPal := rfl
@[simp] theorem putFlat_snd (a : Addr) (v : Byte) : (s.putFlat a v).snd = s.snd := rfl
@[simp] theorem putFlat_rtc (a : Addr) (v : Byte) : (s.putFlat a v).rtc = s.rtc := rfl
@[simp] theorem putFlat_cycles (a : Addr) (v : Byte) : (s.putFlat a v).cycles = s.cycles := rfl
@[simp] theorem putFlat_fault (a : Addr) (v : Byte) : (s.putFlat a v).fault = s.fault := rfl
@[simp] theorem putFlat_response (a : Addr) (v : Byte) : (s.putFlat a v).response = s.response := rfl
@[simp] theorem putFlat_inputs (a : Addr) (v : Byte) : (s.putFlat a v).inputs = s.inputs := rfl
@[simp] theorem putFlat_mode (a : Addr) (v : Byte) : (s.putFlat a v).mode = s.mode := rfl

/-! ## `putVram` -/

@[simp] theorem putVram_cfg (k : Nat) (v : Byte) : (s.putVram k v).cfg = s.cfg := rfl
@[simp] theorem putVram_romBank (k : Nat) (v : Byte) : (s.putVram k v).romBank = s.romBank := rfl
@[simp] theorem putVram_ramBank (k : Nat) (v : Byte) : (s.putVram k v).ramBank = s.ramBank := rfl
@[simp] theorem putVram_bankMode (k : Nat) (v : Byte) : (s.putVram k v).bankMode = s.bankMode := rfl
@[simp] theorem putVram_rtcSel (k : Nat) (v : Byte) : (s.putVram k v).rtcSel = s.rtcSel := rfl
@[simp] theorem putVram_wramBank (k : Nat) (v : Byte) : (s.putVram k v).wramBank = s.wramBank := rfl
@[simp] theorem putVram_vramBank (k : Nat) (v : Byte) : (s.putVram k v).vramBank = s.vramBank := rfl
@[simp] theorem putVram_bgIdx (k : Nat) (v : Byte) : (s.putVram k v).bgIdx = s.bgIdx := rfl
@[simp] theorem putVram_bgInc (k : Nat) (v : Byte) : (s.putVram k v).bgInc = s.bgInc := rfl
@[simp] theorem putVram_obIdx (k : Nat) (v : Byte) : (s.putVram k v).obIdx = s.obIdx := rfl
@[simp] theorem putVram_obInc (k : Nat) (v : Byte) : (s.putVram k v).obInc = s.obInc := rfl
@[simp] theorem putVram_lcdc (k : Nat) (v : Byte) : (s.putVram k v).lcdc = s.lcdc := rfl
@[simp] theorem putVram_stat (k : Nat) (v : Byte) : (s.putVram k v).stat = s.stat := rfl
@[simp] theorem putVram_flat (k : Nat) (v : Byte) : (s.putVram k v).flat = s.flat := rfl
@[simp] theorem putVram_rom (k : Nat) (v : Byte) : (s.putVram k v).rom = s.rom := rfl
@[simp] theorem putVram_eram (k : Nat) (v : Byte) : (s.putVram k v).eram = s.eram := rfl
@[simp] theorem putVram_wram (k : Nat) (v : Byte) : (s.putVram k v).wram = s.wram := rfl
@[simp] theorem putVram_vram (k : Nat) (v : Byte) : (s.putVram k v).vram = Memory.write s.vram k v := rfl
@[simp] theorem putVram_bgPal (k : Nat) (v : Byte) : (s.putVram k v).bgPal = s.bgPal := rfl
@[simp] theorem putVram_obPal (k : Nat) (v : Byte) : (s.putVram k v).obPal = s.obPal := rfl
@[simp] theorem putVram_snd (k : Nat) (v : Byte) : (s.putVram k v).snd = s.snd := rfl
@[simp] theorem putVram_rtc (k : Nat) (v : Byte) : (s.putVram k v).rtc = s.rtc := rfl
@[simp] theorem putVram_cycles (k : Nat) (v : Byte) : (s.putVram k v).cycles = s.cycles := rfl
@[simp] theorem putVram_fault (k : Nat) (v : Byte) : (s.putVram k v).fault = s.fault := rfl
@[simp] theorem putVram_response (k : Nat) (v : Byte) : (s.putVram k v).response = s.response := rfl
@[simp] theorem putVram_inputs (k : Nat) (v : Byte) : (s.putVram k v).inputs = s.inputs := rfl
@[simp] theorem putVram_mode (k : Nat) (v : Byte) : (s.putVram k v).mode = s.mode := rfl

/-! ## `putEram` -/

@[simp] theorem putEram_cfg (k : Nat) (v : Byte) : (s.putEram k v).cfg = s.cfg := rfl
@[simp] theorem putEram_romBank (k : Nat) (v : Byte) : (s.putEram k v).romBank = s.romBank := rfl
@[simp] theorem putEram_ramBank (k : Nat) (v : Byte) : (s.putEram k v).ramBank = s.ramBank := rfl
@[simp] theorem putEram_bankMode (k : Nat) (v : Byte) : (s.putEram k v).bankMode = s.bankMode := rfl
@[simp] theorem putEram_rtcSel (k : Nat) (v : Byte) : (s.putEram k v).rtcSel = s.rtcSel := rfl
@[simp] theorem putEram_wramBank (k : Nat) (v : Byte) : (s.putEram k v).wramBank = s.wramBank := rfl
@[simp] theorem putEram_vramBank (k : Nat) (v : Byte) : (s.putEram k v).vramBank = s.vramBank := rfl
@[simp] theorem putEram_bgIdx (k : Nat) (v : Byte) : (s.putEram k v).bgIdx = s.bgIdx := rfl
@[simp] theorem putEram_bgInc (k : Nat) (v : Byte) : (s.putEram k v).bgInc = s.bgInc := rfl
@[simp] theorem putEram_obIdx (k : Nat) (v : Byte) : (s.putEram k v).obIdx = s.obIdx := rfl
@[simp] theorem putEram_obInc (k : Nat) (v : Byte) : (s.putEram k v).obInc = s.obInc := rfl
@[simp] theorem putEram_lcdc (k : Nat) (v : Byte) : (s.putEram k v).lcdc = s.lcdc := rfl
@[simp] theorem putEram_stat (k : Nat) (v : Byte) : (s.putEram k v).stat = s.stat := rfl
@[simp] theorem putEram_flat (k : Nat) (v : Byte) : (s.putEram k v).flat = s.flat := rfl
@[simp] theorem putEram_rom (k : Nat) (v : Byte) : (s.putEram k v).rom = s.rom := rfl
@[simp] theorem putEram_eram (k : Nat) (v : Byte) : (s.putEram k v).eram = Memory.write s.eram k v := rfl
@[simp] theorem putEram_wram (k : Nat) (v : Byte) : (s.putEram k v).wram = s.wram := rfl
@[simp] theorem putEram_vram (k : Nat) (v : Byte) : (s.putEram k v).vram = s.vram := rfl
@[simp] theorem putEram_bgPal (k : Nat) (v : Byte) : (s.putEram k v).bgPal = s.bgPal := rfl
@[simp] theorem putEram_obPal (k : Nat) (v : Byte) : (s.putEram k v).obPal = s.obPal := rfl
@[simp] theorem putEram_snd (k : Nat) (v : Byte) : (s.putEram k v).snd = s.snd := rfl
@[simp] theorem putEram_rtc (k : Nat) (v : Byte) : (s.putEram k v).rtc = s.rtc := rfl
@[simp] theorem putEram_cycles (k : Nat) (v : Byte) : (s.putEram k v).cycles = s.cycles := rfl
@[simp] theorem putEram_fault (k : Nat) (v : Byte) : (s.putEram k v).fault = s.fault := rfl
@[simp] theorem putEram_response (k : Nat) (v : Byte) : (s.putEram k v).response = s.response := rfl
@[simp] theorem putEram_inputs (k : Nat) (v : Byte) : (s.putEram k v).inputs = s.inputs := rfl
@[simp] theorem putEram_mode (k : Nat) (v : Byte) : (s.putEram k v).mode = s.mode := rfl

/-! ## `putWram` -/

@[simp] theorem putWram_cfg (k : Nat) (v : Byte) : (s.putWram k v).cfg = s.cfg := rfl
@[simp] theorem putWram_romBank (k : Nat) (v : Byte) : (s.putWram k v).romBank = s.romBank := rfl
@[simp] theorem putWram_ramBank (k : Nat) (v : Byte) : (s.putWram k v).ramBank = s.ramBank := rfl
@[simp] theorem putWram_bankMode (k : Nat) (v : Byte) : (s.putWram k v).bankMode = s.bankMode := rfl
@[simp] theorem putWram_rtcSel (k : Nat) (v : Byte) : (s.putWram k v).rtcSel = s.rtcSel := rfl
@[simp] theorem putWram_wramBank (k : Nat) (v : Byte) : (s.putWram k v).wramBank = s.wramBank := rfl
@[simp] theorem putWram_vramBank (k : Nat) (v : Byte) : (s.putWram k v).vramBank = s.vramBank := rfl
@[simp] theorem putWram_bgIdx (k : Nat) (v : Byte) : (s.putWram k v).bgIdx = s.bgIdx := rfl
@[simp] theorem putWram_bgInc (k : Nat) (v : Byte) : (s.putWram k v).bgInc = s.bgInc := rfl
@[simp] theorem putWram_obIdx (k : Nat) (v : Byte) : (s.putWram k v).obIdx = s.obIdx := rfl
@[simp] theorem putWram_obInc (k : Nat) (v : Byte) : (s.putWram k v).obInc = s.obInc := rfl
@[simp] theorem putWram_lcdc (k : Nat) (v : Byte) : (s.putWram k v).lcdc = s.lcdc := rfl
@[simp] theorem putWram_stat (k : Nat) (v : Byte) : (s.putWram k v).stat = s.stat := rfl
@[simp] theorem putWram_flat (k : Nat) (v : Byte) : (s.putWram k v).flat = s.flat := rfl
@[simp] theorem putWram_rom (k : Nat) (v : Byte) : (s.putWram k v).rom = s.rom := rfl
@[simp] theorem putWram_eram (k : Nat) (v : Byte) : (s.putWram k v).eram = s.eram := rfl
@[simp] theorem putWram_wram (k : Nat) (v : Byte) : (s.putWram k v).wram = Memory.write s.wram k v := rfl
@[simp] theorem putWram_vram (k : Nat) (v : Byte) : (s.putWram k v).vram = s.vram := rfl
@[simp] theorem putWram_bgPal (k : Nat) (v : Byte) : (s.putWram k v).bgPal = s.bgPal := rfl
@[simp] theorem putWram_obPal (k : Nat) (v : Byte) : (s.putWram k v).obPal = s.obPal := rfl
@[simp] theorem putWram_snd (k : Nat) (v : Byte) : (s.putWram k v).snd = s.snd := rfl
@[simp] theorem putWram_rtc (k : Nat) (v : Byte) : (s.putWram k v).rtc = s.rtc := rfl
@[simp] theorem putWram_cycles (k : Nat) (v : Byte) : (s.putWram k v).cycles = s.cycles := rfl
@[simp] theorem putWram_fault (k : Nat) (v : Byte) : (s.putWram k v).fault = s.fault := rfl
@[simp] theorem putWram_response (k : Nat) (v : Byte) : (s.putWram k v).response = s.response := rfl
@[simp] theorem putWram_inputs (k : Nat) (v : Byte) : (s.putWram k v).inputs = s.inputs := rfl
@[simp] theorem putWram_mode (k : Nat) (v : Byte) : (s.putWram k v).mode = s.mode := rfl

/-! ## `callSound` -/

@[simp] theorem callSound_cfg (c : SoundCall) : (s.callSound c).cfg = s.cfg := rfl
@[simp] theorem callSound_romBank (c : SoundCall) : (s.callSound c).romBank = s.romBank := rfl
@[simp] theorem callSound_ramBank (c : SoundCall) : (s.callSound c).ramBank = s.ramBank := rfl
@[simp] theorem callSound_bankMode (c : SoundCall) : (s.callSound c).bankMode = s.bankMode := rfl
@[simp] theorem callSound_rtcSel (c : SoundCall) : (s.callSound c).rtcSel = s.rtcSel := rfl
@[simp] theorem callSound_wramBank (c : SoundCall) : (s.callSound c).wramBank = s.wramBank := rfl
@[simp] theorem callSound_vramBank (c : SoundCall) : (s.callSound c).vramBank = s.vramBank := rfl
@[simp] theorem callSound_bgIdx (c : SoundCall) : (s.callSound c).bgIdx = s.bgIdx := rfl
@[simp] theorem callSound_bgInc (c : SoundCall) : (s.callSound c).bgInc = s.bgInc := rfl
@[simp] theorem callSound_obIdx (c : SoundCall) : (s.callSound c).obIdx = s.obIdx := rfl
@[simp] theorem callSound_obInc (c : SoundCall) : (s.callSound c).obInc = s.obInc := rfl
@[simp] theorem callSound_lcdc (c : SoundCall) : (s.callSound c).lcdc = s.lcdc := rfl
@[simp] theorem callSound_stat (c : SoundCall) : (s.callSound c).stat = s.stat := rfl
@[simp] theorem callSound_flat (c : SoundCall) : (s.callSound c).flat = s.flat := rfl
@[simp] theorem callSound_rom (c : SoundCall) : (s.callSound c).rom = s.rom := rfl
@[simp] theorem callSound_eram (c : SoundCall) : (s.callSound c).eram = s.eram := rfl
@[simp] theorem callSound_wram (c : SoundCall) : (s.callSound c).wram = s.wram := rfl
@[simp] theorem callSound_vram (c : SoundCall) : (s.callSound c).vram = s.vram := rfl
@[simp] theorem callSound_bgPal (c : SoundCall) : (s.callSound c).bgPal = s.bgPal := rfl
@[simp] theorem callSound_obPal (c : SoundCall) : (s.callSound c).obPal = s.obPal := rfl
@[simp] theorem callSound_snd (c : SoundCall) : (s.callSound c).snd = c :: s.snd := rfl
@[simp] theorem callSound_rtc (c : SoundCall) : (s.callSound c).rtc = s.rtc := rfl
@[simp] theorem callSound_cycles (c : SoundCall) : (s.callSound c).cycles = s.cycles := rfl
@[simp] theorem callSound_fault (c : SoundCall) : (s.callSound c).fault = s.fault := rfl
@[simp] theorem callSound_response (c : SoundCall) : (s.callSound c).response = s.response := rfl
@[simp] theorem callSound_inputs (c : SoundCall) : (s.callSound c).inputs = s.inputs := rfl
@[simp] theorem callSound_mode (c : SoundCall) : (s.callSound c).mode = s.mode := rfl

/-! ## `callClock` -/

@[simp] theorem callClock_cfg (c : ClockCall) : (s.callClock c).cfg = s.cfg := rfl
@[simp] theorem callClock_romBank (c : ClockCall) : (s.callClock c).romBank = s.romBank := rfl
@[simp] theorem callClock_ramBank (c : ClockCall) : (s.callClock c).ramBank = s.ramBank := rfl
@[simp] theorem callClock_bankMode (c : ClockCall) : (s.callClock c).bankMode = s.bankMode := rfl
@[simp] theorem callClock_rtcSel (c : ClockCall) : (s.callClock c).rtcSel = s.rtcSel := rfl
@[simp] theorem callClock_wramBank (c : ClockCall) : (s.callClock c).wramBank = s.wramBank := rfl
@[simp] theorem callClock_vramBank (c : ClockCall) : (s.callClock c).vramBank = s.vramBank := rfl
@[simp] theorem callClock_bgIdx (c : ClockCall) : (s.callClock c).bgIdx = s.bgIdx := rfl
@[simp] theorem callClock_bgInc (c : ClockCall) : (s.callClock c).bgInc = s.bgInc := rfl
@[simp] theorem callClock_obIdx (c : ClockCall) : (s.callClock c).obIdx = s.obIdx := rfl
@[simp] theorem callClock_obInc (c : ClockCall) : (s.callClock c).obInc = s.obInc := rfl
@[simp] theorem callClock_lcdc (c : ClockCall) : (s.callClock c).lcdc = s.lcdc := rfl
@[simp] theorem callClock_stat (c : ClockCall) : (s.callClock c).stat = s.stat := rfl
@[simp] theorem callClock_flat (c : ClockCall) : (s.callClock c).flat = s.flat := rfl
@[simp] theorem callClock_rom (c : ClockCall) : (s.callClock c).rom = s.rom := rfl
@[simp] theorem callClock_eram (c : ClockCall) : (s.callClock c).eram = s.eram := rfl
@[simp] theorem callClock_wram (c : ClockCall) : (s.callClock c).wram = s.wram := rfl
@[simp] theorem callClock_vram (c : ClockCall) : (s.callClock c).vram = s.vram := rfl
@[simp] theorem callClock_bgPal (c : ClockCall) : (s.callClock c).bgPal = s.bgPal := rfl
@[simp] theorem callClock_obPal (c : ClockCall) : (s.callClock c).obPal = s.obPal := rfl
@[simp] theorem callClock_snd (c : ClockCall) : (s.callClock c).snd = s.snd := rfl
@[simp] theorem callClock_rtc (c : ClockCall) : (s.callClock c).rtc = c :: s.rtc := rfl
@[simp] theorem callClock_cycles (c : ClockCall) : (s.callClock c).cycles = s.cycles := rfl
@[simp] theorem callClock_fault (c : ClockCall) : (s.callClock c).fault = s.fault := rfl
@[simp] theorem callClock_response (c : ClockCall) : (s.callClock c).response = s.response := rfl
@[simp] theorem callClock_inputs (c : ClockCall) : (s.callClock c).inputs = s.inputs := rfl
@[simp] theorem callClock_mode (c : ClockCall) : (s.callClock c).mode = s.mode := rfl

/-! ## `setInputs` -/

@[simp] theorem setInputs_cfg (l : List Input) : (s.setInputs l).cfg = s.cfg := rfl
@[simp] theorem setInputs_romBank (l : List Input) : (s.setInputs l).romBank = s.romBank := rfl
@[simp] theorem setInputs_ramBank (l : List Input) : (s.setInputs l).ramBank = s.ramBank := rfl
@[simp] theorem setInputs_bankMode (l : List Input) : (s.setInputs l).bankMode = s.bankMode := rfl
@[simp] theorem setInputs_rtcSel (l : List Input) : (s.setInputs l).rtcSel = s.rtcSel := rfl
@[simp] theorem setInputs_wramBank (l : List Input) : (s.setInputs l).wramBank = s.wramBank := rfl
@[simp] theorem setInputs_vramBank (l : List Input) : (s.setInputs l).vramBank = s.vramBank := rfl
@[simp] theorem setInputs_bgIdx (l : List Input) : (s.setInputs l).bgIdx = s.bgIdx := rfl
@[simp] theorem setInputs_bgInc (l : List Input) : (s.setInputs l).bgInc = s.bgInc := rfl
@[simp] theorem setInputs_obIdx (l : List Input) : (s.setInputs l).obIdx = s.obIdx := rfl
@[simp] theorem setInputs_obInc (l : List Input) : (s.setInputs l).obInc = s.obInc := rfl
@[simp] theorem setInputs_lcdc (l : List Input) : (s.setInputs l).lcdc = s.lcdc := rfl
@[simp] theorem setInputs_stat (l : List Input) : (s.setInputs l).stat = s.stat := rfl
@[simp] theorem setInputs_flat (l : List Input) : (s.setInputs l).flat = s.flat := rfl
@[simp] theorem setInputs_rom (l : List Input) : (s.setInputs l).rom = s.rom := rfl
@[simp] theorem setInputs_eram (l : List Input) : (s.setInputs l).eram = s.eram := rfl
@[simp] theorem setInputs_wram (l : List Input) : (s.setInputs l).wram = s.wram := rfl
@[simp] theorem setInputs_vram (l : List Input) : (s.setInputs l).vram = s.vram := rfl
@[simp] theorem setInputs_bgPal (l : List Input) : (s.setInputs l).bgPal = s.bgPal := rfl
@[simp] theorem setInputs_obPal (l : List Input) : (s.setInputs l).obPal = s.obPal := rfl
@[simp] theorem setInputs_snd (l : List Input) : (s.setInputs l).snd = s.snd := rfl
@[simp] theorem setInputs_rtc (l : List Input) : (s.setInputs l).rtc = s.rtc := rfl
@[simp] theorem setInputs_cycles (l : List Input) : (s.setInputs l).cycles = s.cycles := rfl
@[simp] theorem setInputs_fault (l : List Input) : (s.setInputs l).fault = s.fault := rfl
@[simp] theorem setInputs_response (l : List Input) : (s.setInputs l).response = s.response := rfl
@[simp] theorem setInputs_inputs (l : List Input) : (s.setInputs l).inputs = l := rfl
@[simp] theorem setInputs_mode (l : List Input) : (s.setInputs l).mode = s.mode := rfl

/-! ## The mode's fields -/

@[simp] theorem mode_kind : s.mode.kind = s.cfg.kind := rfl
@[simp] theorem mode_bankMode : s.mode.bankMode = s.bankMode := rfl
@[simp] theorem mode_rtcSel : s.mode.rtcSel = s.rtcSel := rfl
@[simp] theorem mode_wramBank : s.mode.wramBank = s.wramBank := rfl
@[simp] theorem mode_regs : s.mode.regs = s.cfg.regs := rfl

end Sys2Proof.Machine.State
end

