-- ==== Sys2Proof/Laws/Ops.lean ====
section
/-! SUPPORT. What each shared operation can do, said once: how a transaction ends, a byte read, a byte store, a bank switch,
a run of byte copies, a change by the environment, and one step. -/
namespace Sys2Proof.Machine

/-! ## How a transaction ends -/

@[simp] theorem answer_ok (s : State) (b : Byte) : answer s (.ok b) = .next (s.respond b) := rfl
@[simp] theorem answer_error (s : State) (f : Fault) : answer s (.error f) = .next (s.raise f) := rfl
@[simp] theorem finish_ok (s t : State) : finish s (.ok t) = .next t.complete := rfl
@[simp] theorem finish_error (s : State) (f : Fault) : finish s (.error f) = .next (s.raise f) := rfl
@[simp] theorem finishTransfer_ok (t : State) : finishTransfer (.ok t) = .next t.complete := rfl
@[simp] theorem finishTransfer_error (f : Fault) (t : State) : finishTransfer (.error (f, t)) = .next (t.raise f) := rfl

/-- A read always answers next: with its byte, or with the fault on record. -/
theorem answer_cases {s t : State} {r : Except Fault Byte} (h : answer s r = .next t) :
    (∃ b, r = .ok b ∧ t = s.respond b) ∨ (∃ f, r = .error f ∧ t = s.raise f) := by
  cases r with
  | ok b => exact .inl ⟨b, rfl, by simpa using h.symm⟩
  | error f => exact .inr ⟨f, rfl, by simpa using h.symm⟩

/-- A write always answers next: with its state, or with the fault on record and nothing else changed (R238). -/
theorem finish_cases {s t : State} {r : Except Fault State} (h : finish s r = .next t) :
    (∃ u, r = .ok u ∧ t = u.complete) ∨ (∃ f, r = .error f ∧ t = s.raise f) := by
  cases r with
  | ok u => exact .inl ⟨u, rfl, by simpa using h.symm⟩
  | error f => exact .inr ⟨f, rfl, by simpa using h.symm⟩

/-- A transfer always answers next: complete, or with the fault on record and the bytes copied so far in place (R193). -/
theorem finishTransfer_cases {t : State} {r : Except (Fault × State) State} (h : finishTransfer r = .next t) :
    (∃ u, r = .ok u ∧ t = u.complete) ∨ (∃ f u, r = .error (f, u) ∧ t = u.raise f) := by
  cases r with
  | ok u => exact .inl ⟨u, rfl, by simpa using h.symm⟩
  | error e => exact .inr ⟨e.1, e.2, rfl, by simpa [finishTransfer] using h.symm⟩

/-! ## A byte read -/

theorem romCell_ok {s : State} (a : Addr) (h : s.romBank.toNat < s.cfg.nRomBanks) :
    romCell s a = .ok (Memory.read s.rom (romIndex s.romBank a)) := by simp [romCell, h]

theorem eramCell_ok {s : State} (a : Addr) (h : s.ramBank.toNat < s.cfg.nEramBanks) :
    eramCell s a = .ok (Memory.read s.eram (eramIndex s.ramBank a)) := by simp [eramCell, h]

/-- A byte read fails only with a pointer that names no bank (R193, R232). -/
theorem readByte_error {s : State} {a : Addr} {f : Fault} (h : readByte s a = .error f) :
    (within 0x4000 0x8000 a = true ∧ s.cfg.nRomBanks ≤ s.romBank.toNat ∧ f = .bankOutOfRange .rom s.romBank.toNat) ∨
    (within 0xa000 0xc000 a = true ∧ s.rtcSel = 0 ∧ s.cfg.nEramBanks ≤ s.ramBank.toNat ∧
      f = .bankOutOfRange .eram s.ramBank.toNat) := by
  unfold readByte at h
  split at h <;> rename_i hr
  case h_1 =>
    left
    unfold romCell at h
    split at h
    · cases h
    · refine ⟨?_, by omega, by injection h with h; exact h.symm⟩
      unfold regionR at hr
      by_contra hw
      simp only [hw, if_false] at hr
      repeat' split at hr
      all_goals cases hr
  case h_4 =>
    right
    unfold eramCell at h
    split at h
    · cases h
    · unfold regionR at hr
      split at hr
      · cases hr
      split at hr
      · cases hr
      split at hr
      · rename_i hw
        split at hr
        · cases hr
        · rename_i hz
          exact ⟨hw, by simpa using hz, by omega, by injection h with h; exact h.symm⟩
      · exfalso
        repeat' split at hr
        all_goals cases hr
  all_goals cases h

/-- A byte read succeeds when both pointers name a bank or are not consulted (R111, R113, R114). -/
theorem readByte_ok {s : State} (a : Addr) (hrom : s.romBank.toNat < s.cfg.nRomBanks) (heram : s.eramWindowOpen = true) :
    ∃ b, readByte s a = .ok b := by
  cases h : readByte s a with
  | ok b => exact ⟨b, rfl⟩
  | error f =>
    simp only [State.eramWindowOpen, Bool.or_eq_true, bne_iff_ne, ne_eq, decide_eq_true_eq] at heram
    rcases readByte_error h with ⟨_, h1, _⟩ | ⟨_, h1, h2, _⟩
    · omega
    · rcases heram with h3 | h3
      · exact absurd h1 h3
      · omega

/-- A byte read does not see a flat store at another address. -/
theorem readByte_putFlat {s : State} {a b : Addr} {v : Byte} (h : b ≠ a) : readByte (s.putFlat a v) b = readByte s b := by
  unfold readByte
  rw [show (s.putFlat a v).mode = s.mode from rfl]
  have : flatCell (s.putFlat a v) b = flatCell s b := Memory.read_write_other _ _ fun e => h (BitVec.eq_of_toNat_eq e)
  cases regionR s.mode b <;> first | rfl | (simp only; rw [this])

/-! ## A byte store -/

/-- What a byte store can change: one of the five stores, and nothing else. -/
theorem storeByte_frame {s t : State} {a : Addr} {v : Byte} (h : storeByte s a v = .ok t) :
    t = { s with flat := t.flat, vram := t.vram, eram := t.eram, wram := t.wram, rtc := t.rtc } := by
  unfold storeByte at h
  split at h
  case h_4 =>
    unfold storeEram at h
    split at h
    · injection h with h; subst h; rfl
    · cases h
  all_goals injection h with h; subst h; rfl

/-- A byte store fails only in the external-RAM window, with a pointer that names no bank (R232). -/
theorem storeByte_error {s : State} {a : Addr} {v : Byte} {f : Fault} (h : storeByte s a v = .error f) :
    s.rtcSel = 0 ∧ s.cfg.nEramBanks ≤ s.ramBank.toNat ∧ f = .bankOutOfRange .eram s.ramBank.toNat := by
  unfold storeByte at h
  split at h <;> rename_i hr
  case h_4 =>
    unfold storeEram at h
    split at h
    · cases h
    · refine ⟨?_, by omega, by injection h with h; exact h.symm⟩
      unfold regionW at hr
      split at hr
      · cases hr
      split at hr
      · cases hr
      split at hr
      · split at hr
        · cases hr
        · rename_i hz; simpa using hz
      · exfalso
        split at hr <;> cases hr
  all_goals cases h

/-- ALL THAT A BYTE STORE CAN DO, by the address: nothing below 0x8000, one cell of one array above it, or one call to the clock. -/
theorem storeByte_cases {s t : State} {a : Addr} {v : Byte} (h : storeByte s a v = .ok t) :
    (a.toNat ≤ 0x7fff ∧ t = s) ∨
    (within 0x8000 0xa000 a = true ∧ t = s.putVram (vramIndex s.vramBank a) v) ∨
    (within 0xa000 0xc000 a = true ∧ s.rtcSel ≠ 0 ∧ t = s.callClock (.write s.rtcSel v)) ∨
    (within 0xa000 0xc000 a = true ∧ s.rtcSel = 0 ∧ s.ramBank.toNat < s.cfg.nEramBanks ∧ t = s.putEram (eramIndex s.ramBank a) v) ∨
    (within 0xd000 0xe000 a = true ∧ 1 < s.wramBank.toNat ∧ t = s.putWram (wramIndex s.wramBank a) v) ∨
    (0xc000 ≤ a.toNat ∧ t = s.putFlat a v) := by
  by_cases h0 : a.toNat ≤ 0x7fff
  · rw [storeByte, regionW_cart h0] at h
    injection h with h; exact .inl ⟨h0, h.symm⟩
  by_cases h1 : within 0x8000 0xa000 a = true
  · rw [storeByte, regionW_vram h1] at h
    injection h with h; exact .inr (.inl ⟨h1, h.symm⟩)
  by_cases h2 : within 0xa000 0xc000 a = true
  · rw [storeByte, regionW_window h2] at h
    by_cases hz : s.rtcSel = 0
    · rw [if_pos (show s.mode.rtcSel = 0 from hz)] at h
      dsimp only [storeEram] at h
      split at h
      · injection h with h; exact .inr (.inr (.inr (.inl ⟨h2, hz, ‹_›, h.symm⟩)))
      · cases h
    · rw [if_neg (show ¬ s.mode.rtcSel = 0 from hz)] at h
      injection h with h; exact .inr (.inr (.inl ⟨h2, hz, h.symm⟩))
  have h3 : 0xc000 ≤ a.toNat := by simp only [within_iff] at h1 h2; omega
  by_cases hb : (s.mode.wramBanked && within 0xd000 0xe000 a) = true
  · rw [Bool.and_eq_true] at hb
    rw [storeByte, regionW_wramx hb.2 hb.1] at h
    injection h with h
    exact .inr (.inr (.inr (.inr (.inl ⟨hb.2, of_decide_eq_true hb.1, h.symm⟩))))
  · rw [storeByte, regionW_flat h3 (Bool.not_eq_true _ ▸ hb)] at h
    injection h with h; exact .inr (.inr (.inr (.inr (.inr ⟨h3, h.symm⟩))))

/-- Every byte store keeps the memories legal. -/
theorem storeByte_memoriesLegal {s t : State} {a : Addr} {v : Byte} (hs : s.MemoriesLegal) (h : storeByte s a v = .ok t) :
    t.MemoriesLegal := by
  rcases storeByte_cases h with ⟨_, rfl⟩ | ⟨ha, rfl⟩ | ⟨_, _, rfl⟩ | ⟨ha, _, hb, rfl⟩ | ⟨ha, _, rfl⟩ | ⟨_, rfl⟩
  · exact hs
  · exact ⟨hs.flat, hs.rom, hs.eram, hs.wram, Memory.wf_write v (vramIndex_lt ha) hs.vram, hs.bgPal, hs.obPal⟩
  · exact ⟨hs.flat, hs.rom, hs.eram, hs.wram, hs.vram, hs.bgPal, hs.obPal⟩
  · exact ⟨hs.flat, hs.rom, Memory.wf_write v (eramIndex_lt ha hb) hs.eram, hs.wram, hs.vram, hs.bgPal, hs.obPal⟩
  · exact ⟨hs.flat, hs.rom, hs.eram, Memory.wf_write v (wramIndex_lt ha) hs.wram, hs.vram, hs.bgPal, hs.obPal⟩
  · exact ⟨Memory.wf_write v a.isLt hs.flat, hs.rom, hs.eram, hs.wram, hs.vram, hs.bgPal, hs.obPal⟩

/-! ## A bank switch (R152) -/

/-- A bank switch changes the ROM pointer to a candidate below the limit, or nothing, or raises the fatal error. -/
theorem bankSwitch_cases {s t : State} {c : BitVec 7} (h : bankSwitch s c = .ok t) :
    t = s ∨ (∃ limit, romLimit s.cfg.romClass = some limit ∧ s.cfg.romClass ≠ 0 ∧ c.toNat < limit ∧ t = { s with romBank := c }) := by
  unfold bankSwitch at h
  split at h
  · cases h
  · rename_i limit hl
    split at h
    · injection h with h; exact .inl h.symm
    · split at h
      · injection h with h; exact .inr ⟨limit, hl, ‹_›, ‹_›, h.symm⟩
      · injection h with h; exact .inl h.symm

theorem bankSwitch_error {s : State} {c : BitVec 7} {f : Fault} (h : bankSwitch s c = .error f) :
    romLimit s.cfg.romClass = none ∧ f = .configFatal s.cfg.kind s.cfg.romClass s.cfg.ramClass := by
  unfold bankSwitch at h
  split at h
  · injection h with h; exact ⟨‹_›, h.symm⟩
  · split at h
    · cases h
    · split at h <;> cases h

/-! ## A run of byte copies -/

/-- An induction over a transfer, packaged once: what every byte store keeps, a run of byte copies keeps, whether it
completes or ends in a fault. -/
theorem copyBytes_induction {P : State → Prop} {n : Nat} {src dst : Addr} {s : State}
    (hs : P s) (hstep : ∀ u t a v, P u → storeByte u a v = .ok t → P t) :
    (∀ t, copyBytes n src dst s = .ok t → P t) ∧ (∀ f t, copyBytes n src dst s = .error (f, t) → P t) := by
  induction n generalizing src dst s with
  | zero =>
    refine ⟨fun t h => ?_, fun f t h => ?_⟩
    · injection h with h; exact h ▸ hs
    · cases h
  | succ n ih =>
    unfold copyBytes
    split
    · refine ⟨fun t h => ?_, fun f t h => ?_⟩
      · cases h
      · injection h with h; injection h with h1 h2; exact h2 ▸ hs
    · split
      · refine ⟨fun t h => ?_, fun f t h => ?_⟩
        · cases h
        · injection h with h; injection h with h1 h2; exact h2 ▸ hs
      · rename_i u hu
        exact ih (hstep _ _ _ _ hs hu)

/-- What a run of byte copies can change: the five stores of a byte store, and nothing else. -/
theorem copyBytes_frame {n : Nat} {src dst : Addr} {s : State} :
    (∀ t, copyBytes n src dst s = .ok t →
      t = { s with flat := t.flat, vram := t.vram, eram := t.eram, wram := t.wram, rtc := t.rtc }) ∧
    (∀ f t, copyBytes n src dst s = .error (f, t) →
      t = { s with flat := t.flat, vram := t.vram, eram := t.eram, wram := t.wram, rtc := t.rtc }) := by
  apply copyBytes_induction (P := fun t => t = { s with flat := t.flat, vram := t.vram, eram := t.eram, wram := t.wram, rtc := t.rtc })
  · rfl
  · intro u t a v hu ht
    have := storeByte_frame ht
    rw [this]; rw [hu]

/-- Every run of byte copies keeps the memories legal. -/
theorem copyBytes_memoriesLegal {n : Nat} {src dst : Addr} {s : State} (hs : s.MemoriesLegal) :
    (∀ t, copyBytes n src dst s = .ok t → t.MemoriesLegal) ∧ (∀ f t, copyBytes n src dst s = .error (f, t) → t.MemoriesLegal) :=
  copyBytes_induction hs fun _ _ _ _ h1 h2 => storeByte_memoriesLegal h1 h2

/-- A run of byte copies whose first copy succeeds goes on from there. -/
theorem copyBytes_succ_of_ok {n : Nat} {src dst : Addr} {s t : State} {b : Byte} (hr : readByte s src = .ok b)
    (hw : storeByte s dst b = .ok t) : copyBytes (n + 1) src dst s = copyBytes n (src + 1) (dst + 1) t := by
  rw [copyBytes, hr]; dsimp only; rw [hw]

/-- A run of byte copies fails only with a pointer that names no bank, as it was when the run began (R193). -/
theorem copyBytes_error {n : Nat} {src dst : Addr} {s t : State} {f : Fault} (h : copyBytes n src dst s = .error (f, t)) :
    (s.cfg.nRomBanks ≤ s.romBank.toNat ∧ f = .bankOutOfRange .rom s.romBank.toNat) ∨
    (s.rtcSel = 0 ∧ s.cfg.nEramBanks ≤ s.ramBank.toNat ∧ f = .bankOutOfRange .eram s.ramBank.toNat) := by
  induction n generalizing src dst s with
  | zero => cases h
  | succ n ih =>
    unfold copyBytes at h
    split at h
    · rename_i g hg
      injection h with h; injection h with h1 h2; subst h1
      rcases readByte_error hg with ⟨_, a, b⟩ | ⟨_, a, b, c⟩
      · exact .inl ⟨a, b⟩
      · exact .inr ⟨a, b, c⟩
    · split at h
      · rename_i g hg
        injection h with h; injection h with h1 h2; subst h1
        exact .inr (storeByte_error hg)
      · rename_i u hu
        have := ih h
        rw [storeByte_frame hu] at this; exact this

/-! ## The transfers -/

/-- ALL THAT AN OBJECT-MEMORY DMA CAN DO: its 160 copies and then the cycles, or a fault with the copies made so far. -/
theorem execWmDma_cases {s t : State} {v : Byte} (h : execWmDma v s = .next t) :
    (∃ u, copyBytes oamLength (oamSource v) s.cfg.regs.oam (s.putFlat s.cfg.regs.dma v) = .ok u ∧
      t = ({ u with cycles := u.cycles + oamCycles } : State).complete) ∨
    (∃ f u, copyBytes oamLength (oamSource v) s.cfg.regs.oam (s.putFlat s.cfg.regs.dma v) = .error (f, u) ∧ t = u.raise f) := by
  unfold execWmDma oamDma at h
  rw [State.putFlat_cfg] at h
  cases hc : copyBytes oamLength (oamSource v) s.cfg.regs.oam (s.putFlat s.cfg.regs.dma v) with
  | ok u => rw [hc] at h; injection h with h; exact .inl ⟨u, rfl, h.symm⟩
  | error e => rw [hc] at h; injection h with h; exact .inr ⟨e.1, e.2, rfl, h.symm⟩

/-- ALL THAT A VIDEO DMA CAN DO: out of colour mode the store only; in colour mode its copies and then the sentinel, or a fault
with the copies made so far. -/
theorem execWmHdma5_cases {s t : State} {c : Byte} (h : execWmHdma5 c s = .next t) :
    let s1 := s.putFlat s.cfg.regs.hdma5 c
    let src := videoSource (flatCell s1 s.cfg.regs.hdma1) (flatCell s1 s.cfg.regs.hdma2)
    let dst := videoDest (flatCell s1 s.cfg.regs.hdma3) (flatCell s1 s.cfg.regs.hdma4)
    (s.cfg.color = false ∧ t = s1.complete) ∨
    (s.cfg.color = true ∧
      ((∃ u, copyBytes (videoLength c) src dst s1 = .ok u ∧ t = (u.putFlat s.cfg.regs.hdma5 0xff).complete) ∨
       (∃ f u, copyBytes (videoLength c) src dst s1 = .error (f, u) ∧ t = u.raise f))) := by
  intro s1 src dst
  unfold execWmHdma5 at h
  dsimp only at h
  split at h
  · rename_i hcol
    refine .inr ⟨hcol, ?_⟩
    unfold videoDma at h
    dsimp only at h
    cases hc : copyBytes (videoLength c) src dst s1 with
    | ok u => erw [hc] at h; injection h with h; exact .inl ⟨u, rfl, h.symm⟩
    | error e => erw [hc] at h; injection h with h; exact .inr ⟨e.1, e.2, rfl, h.symm⟩
  · rename_i hcol
    injection h with h
    exact .inl ⟨by simpa using hcol, h.symm⟩

/-! ## A change by the environment (D4) -/

/-- What the environment can change. -/
theorem applyEnv_frame (s : State) (e : EnvEvent) :
    s.applyEnv e = { s with
      lcdc := (s.applyEnv e).lcdc, stat := (s.applyEnv e).stat, vram := (s.applyEnv e).vram, bgPal := (s.applyEnv e).bgPal,
      obPal := (s.applyEnv e).obPal, bgIdx := (s.applyEnv e).bgIdx, obIdx := (s.applyEnv e).obIdx,
      bgInc := (s.applyEnv e).bgInc, obInc := (s.applyEnv e).obInc, snd := (s.applyEnv e).snd, rtc := (s.applyEnv e).rtc,
      cycles := (s.applyEnv e).cycles } := by
  cases e <;> rfl

/-! ## Every operation completes or records a fault -/

/-- No meaning stops the machine: `exec` answers next for every operation in every state (R12, R234). -/
theorem exec_next (i : Instr) (s : State) : ∃ t, exec i s = .next t := by
  have ha : ∀ (s : State) r, ∃ t, answer s r = .next t := fun s r => by cases r <;> exact ⟨_, rfl⟩
  have hf : ∀ (s : State) r, ∃ t, finish s r = .next t := fun s r => by cases r <;> exact ⟨_, rfl⟩
  have ht : ∀ r, ∃ t, finishTransfer r = .next t := fun r => by rcases r with e | _ <;> exact ⟨_, rfl⟩
  cases i
  case wcMbc1Mode a v =>
    show ∃ t, execWcMbc1Mode a v s = .next t
    unfold execWcMbc1Mode
    split <;> exact hf _ _
  case wmHdma5 v =>
    show ∃ t, execWmHdma5 v s = .next t
    unfold execWmHdma5
    dsimp only
    split
    · exact ht _
    · exact hf _ _
  case wmDma v => exact ht _
  all_goals first | exact ⟨_, rfl⟩ | exact ha _ _ | exact hf _ _

/-! ## One step -/

theorem step_of_fault {s : State} {f : Fault} (h : s.fault = some f) : step s = .fault f := by simp [step, h]

theorem step_idle {s : State} (hf : s.fault = none) (hi : s.inputs = []) : step s = .next s := by
  simp [step, hf, State.takeInput, hi]

theorem step_transaction {s : State} {w : TWord} {rest : List Input} (hf : s.fault = none)
    (hi : s.inputs = .transaction w :: rest) : step s = exec (decode s.mode w) (s.setInputs rest) := by
  simp [step, hf, State.takeInput, hi]

theorem step_env {s : State} {e : EnvEvent} {rest : List Input} (hf : s.fault = none) (hi : s.inputs = .env e :: rest) :
    step s = .next ((s.setInputs rest).applyEnv e) := by
  simp [step, hf, State.takeInput, hi]

/-- ALL THAT A STEP CAN DO: with no fault on record it idles, performs one transaction, or lets the environment change
something. -/
theorem step_cases {s t : State} (h : step s = .next t) :
    s.fault = none ∧
    ((s.inputs = [] ∧ t = s) ∨
     (∃ w rest, s.inputs = .transaction w :: rest ∧ exec (decode s.mode w) (s.setInputs rest) = .next t) ∨
     (∃ e rest, s.inputs = .env e :: rest ∧ t = (s.setInputs rest).applyEnv e)) := by
  cases hf : s.fault with
  | some f => rw [step_of_fault hf] at h; cases h
  | none =>
    refine ⟨rfl, ?_⟩
    rcases hi : s.inputs with _ | ⟨w | e, rest⟩
    · rw [step_idle hf hi] at h; injection h with h; exact .inl ⟨rfl, h.symm⟩
    · rw [step_transaction hf hi] at h; exact .inr (.inl ⟨w, rest, rfl, h⟩)
    · rw [step_env hf hi] at h; injection h with h; exact .inr (.inr ⟨e, rest, rfl, h.symm⟩)

end Sys2Proof.Machine
end

