-- ==== Sys2Proof/Laws/PerInstr.lean ====
section
/-! SUPPORT. The family EncodeFields, one lemma per operation: what the direction and data fields of its word say (R90). -/
namespace Sys2Proof.Laws.EncodeFields

/-- The byte an operation writes; none for a read. -/
def written : Instr → Option Byte
  | .rdRomx _ => none
  | .rdVram _ => none
  | .rdEram _ => none
  | .rdRtc _ => none
  | .rdWramx _ => none
  | .rdSnd _ => none
  | .rdLcdc => none
  | .rdStat => none
  | .rdBgpd => none
  | .rdObpd => none
  | .rdFlat _ => none
  | .wcNopLow _ v => some v
  | .wcNopKind _ v => some v
  | .wcMbc1Romb _ v => some v
  | .wcMbc3Romb _ v => some v
  | .wcMbc1Romhi _ v => some v
  | .wcMbc1Ramb _ v => some v
  | .wcMbc3Ramb _ v => some v
  | .wcMbc3Rtcsel _ v => some v
  | .wcMbc3Secign _ v => some v
  | .wcMbc1Mode _ v => some v
  | .wcMbc3Latch _ v => some v
  | .wmVram _ v => some v
  | .wmEram _ v => some v
  | .wmRtc _ v => some v
  | .wmWramx _ v => some v
  | .wmSndReg _ v => some v
  | .wmSndWave _ v => some v
  | .wmLcdc v => some v
  | .wmStat v => some v
  | .wmBgpi v => some v
  | .wmBgpd v => some v
  | .wmObpi v => some v
  | .wmObpd v => some v
  | .wmVbk v => some v
  | .wmSvbk v => some v
  | .wmDma v => some v
  | .wmHdma1 v => some v
  | .wmHdma2 v => some v
  | .wmHdma3 v => some v
  | .wmHdma4 v => some v
  | .wmHdma5 v => some v
  | .wmFlat _ v => some v

/-- The direction bit is set exactly in a write, the data bits are the byte it writes, and 0 in a read. -/
def Statement (i : Instr) : Prop :=
  ∀ m : Mode, (encode m i).isWrite = (written i).isSome ∧ (encode m i).data = (written i).getD 0

theorem read_fields (a : Addr) : (readWord a).isWrite = (none : Option Byte).isSome ∧ (readWord a).data = (none : Option Byte).getD 0 :=
  ⟨readWord_isWrite a, readWord_data a⟩

theorem write_fields (a : Addr) (v : Byte) : (writeWord a v).isWrite = (some v).isSome ∧ (writeWord a v).data = (some v).getD 0 :=
  ⟨writeWord_isWrite a v, writeWord_data a v⟩

theorem rdRomx (addr : Addr) : Statement (.rdRomx addr) := fun _ => read_fields _
theorem rdVram (addr : Addr) : Statement (.rdVram addr) := fun _ => read_fields _
theorem rdEram (addr : Addr) : Statement (.rdEram addr) := fun _ => read_fields _
theorem rdRtc (addr : Addr) : Statement (.rdRtc addr) := fun _ => read_fields _
theorem rdWramx (addr : Addr) : Statement (.rdWramx addr) := fun _ => read_fields _
theorem rdSnd (addr : Addr) : Statement (.rdSnd addr) := fun _ => read_fields _
theorem rdLcdc : Statement .rdLcdc := fun _ => read_fields _
theorem rdStat : Statement .rdStat := fun _ => read_fields _
theorem rdBgpd : Statement .rdBgpd := fun _ => read_fields _
theorem rdObpd : Statement .rdObpd := fun _ => read_fields _
theorem rdFlat (addr : Addr) : Statement (.rdFlat addr) := fun _ => read_fields _
theorem wcNopLow (addr : Addr) (v : Byte) : Statement (.wcNopLow addr v) := fun _ => write_fields _ v
theorem wcNopKind (addr : Addr) (v : Byte) : Statement (.wcNopKind addr v) := fun _ => write_fields _ v
theorem wcMbc1Romb (addr : Addr) (v : Byte) : Statement (.wcMbc1Romb addr v) := fun _ => write_fields _ v
theorem wcMbc3Romb (addr : Addr) (v : Byte) : Statement (.wcMbc3Romb addr v) := fun _ => write_fields _ v
theorem wcMbc1Romhi (addr : Addr) (v : Byte) : Statement (.wcMbc1Romhi addr v) := fun _ => write_fields _ v
theorem wcMbc1Ramb (addr : Addr) (v : Byte) : Statement (.wcMbc1Ramb addr v) := fun _ => write_fields _ v
theorem wcMbc3Ramb (addr : Addr) (v : Byte) : Statement (.wcMbc3Ramb addr v) := fun _ => write_fields _ v
theorem wcMbc3Rtcsel (addr : Addr) (v : Byte) : Statement (.wcMbc3Rtcsel addr v) := fun _ => write_fields _ v
theorem wcMbc3Secign (addr : Addr) (v : Byte) : Statement (.wcMbc3Secign addr v) := fun _ => write_fields _ v
theorem wcMbc1Mode (addr : Addr) (v : Byte) : Statement (.wcMbc1Mode addr v) := fun _ => write_fields _ v
theorem wcMbc3Latch (addr : Addr) (v : Byte) : Statement (.wcMbc3Latch addr v) := fun _ => write_fields _ v
theorem wmVram (addr : Addr) (v : Byte) : Statement (.wmVram addr v) := fun _ => write_fields _ v
theorem wmEram (addr : Addr) (v : Byte) : Statement (.wmEram addr v) := fun _ => write_fields _ v
theorem wmRtc (addr : Addr) (v : Byte) : Statement (.wmRtc addr v) := fun _ => write_fields _ v
theorem wmWramx (addr : Addr) (v : Byte) : Statement (.wmWramx addr v) := fun _ => write_fields _ v
theorem wmSndReg (addr : Addr) (v : Byte) : Statement (.wmSndReg addr v) := fun _ => write_fields _ v
theorem wmSndWave (addr : Addr) (v : Byte) : Statement (.wmSndWave addr v) := fun _ => write_fields _ v
theorem wmLcdc (v : Byte) : Statement (.wmLcdc v) := fun _ => write_fields _ v
theorem wmStat (v : Byte) : Statement (.wmStat v) := fun _ => write_fields _ v
theorem wmBgpi (v : Byte) : Statement (.wmBgpi v) := fun _ => write_fields _ v
theorem wmBgpd (v : Byte) : Statement (.wmBgpd v) := fun _ => write_fields _ v
theorem wmObpi (v : Byte) : Statement (.wmObpi v) := fun _ => write_fields _ v
theorem wmObpd (v : Byte) : Statement (.wmObpd v) := fun _ => write_fields _ v
theorem wmVbk (v : Byte) : Statement (.wmVbk v) := fun _ => write_fields _ v
theorem wmSvbk (v : Byte) : Statement (.wmSvbk v) := fun _ => write_fields _ v
theorem wmDma (v : Byte) : Statement (.wmDma v) := fun _ => write_fields _ v
theorem wmHdma1 (v : Byte) : Statement (.wmHdma1 v) := fun _ => write_fields _ v
theorem wmHdma2 (v : Byte) : Statement (.wmHdma2 v) := fun _ => write_fields _ v
theorem wmHdma3 (v : Byte) : Statement (.wmHdma3 v) := fun _ => write_fields _ v
theorem wmHdma4 (v : Byte) : Statement (.wmHdma4 v) := fun _ => write_fields _ v
theorem wmHdma5 (v : Byte) : Statement (.wmHdma5 v) := fun _ => write_fields _ v
theorem wmFlat (addr : Addr) (v : Byte) : Statement (.wmFlat addr v) := fun _ => write_fields _ v

end Sys2Proof.Laws.EncodeFields
end

