-- ==== Sys2Proof/Tests/Slice0.lean ====
section
/-! SUPPORT. The model's own tests: what WellFormed refuses, one word or more of every row written out from spec 30_encoding.md
and 95_test_vectors.md (sections 12 and 13), one step at a time of that file's vectors (sections 2 to 11), and a witness for
the hypotheses of every statement. Expected values are the spec's. -/
namespace Sys2Proof.Tests
open Sys2Proof Sys2Proof.Machine

/-! ## WellFormed refuses an ill-formed term, check by check -/

theorem test_wf_default_map : AddrMap.default.wf = true := by decide
theorem test_wf_map_two_registers_at_one_address : ({ AddrMap.default with vbk := 0xff40 } : AddrMap).wf = false := by decide
theorem test_wf_map_register_too_low : ({ AddrMap.default with dma := 0xdfff } : AddrMap).wf = false := by decide
theorem test_wf_map_register_in_first_sound_window : ({ AddrMap.default with stat := 0xff26 } : AddrMap).wf = false := by decide
theorem test_wf_map_register_in_second_sound_window : ({ AddrMap.default with stat := 0xff30 } : AddrMap).wf = false := by decide
theorem test_wf_map_register_in_object_table : ({ AddrMap.default with svbk := 0xfe9f } : AddrMap).wf = false := by decide
theorem test_wf_map_register_in_moved_table :
    ({ AddrMap.default with oam := 0xfea0, svbk := 0xff3f } : AddrMap).wf = false ∧
    ({ AddrMap.default with oam := 0xe000, svbk := 0xe09f } : AddrMap).wf = false ∧
    ({ AddrMap.default with oam := 0xe000, svbk := 0xe0a0 } : AddrMap).wf = true := by decide
/-- The table must be plain flat storage: not in a banked window, in a sound window, or across the end of the address space. -/
theorem test_wf_map_object_table_place :
    oamPlace 0xbfff = false ∧ oamPlace 0xc000 = true ∧ oamPlace 0xcf60 = true ∧ oamPlace 0xcf61 = false ∧
    oamPlace 0xdfff = false ∧ oamPlace 0xe000 = true ∧ oamPlace 0xfe70 = true ∧ oamPlace 0xfe71 = false ∧
    oamPlace 0xff26 = false ∧ oamPlace 0xff27 = false ∧ oamPlace 0xff40 = true ∧ oamPlace 0xff60 = true ∧
    oamPlace 0xff61 = false := by decide
theorem test_wf_map_bad_object_table : ({ AddrMap.default with oam := 0xd000 } : AddrMap).wf = false := by decide
theorem test_wf_config_reference : Config.reference.wf = true := by decide
theorem test_wf_config_one_rom_bank : ({ Config.reference with romClass := 0, nRomBanks := 1 } : Config).wf = false := by decide
theorem test_wf_config_rom_smaller_than_limit : ({ Config.reference with nRomBanks := 7 } : Config).wf = false := by decide
theorem test_wf_config_too_many_eram_banks : ({ Config.reference with nEramBanks := 257 } : Config).wf = false := by decide
theorem test_wf_config_bad_map :
    ({ Config.reference with regs := { AddrMap.default with vbk := 0xff40 } } : Config).wf = false := by decide
theorem test_romClassKnown :
    ({ Config.reference with romClass := 7 } : Config).romClassKnown = false ∧
    ({ Config.reference with romClass := 6 } : Config).romClassKnown = true ∧
    ({ Config.reference with romClass := 9, kind := .noController } : Config).romClassKnown = true := by decide

/-- The mode of T0 right after reset, of T1 and of T5 (95_test_vectors.md section 1). -/
def m0 : Mode := .atReset
def m1 : Mode := { m0 with kind := .mbc3 }
def m5 : Mode := { m0 with kind := .noController }

theorem test_wf_reads :
    (Instr.rdRomx 0x3fff).wf m0 = false ∧ (Instr.rdRomx 0x8000).wf m0 = false ∧ (Instr.rdVram 0x7fff).wf m0 = false ∧
    (Instr.rdVram 0xa000).wf m0 = false ∧ (Instr.rdEram 0x9fff).wf m0 = false ∧ (Instr.rdEram 0xc000).wf m0 = false ∧
    (Instr.rdEram 0xa000).wf { m0 with rtcSel := 8 } = false ∧ (Instr.rdRtc 0xa000).wf m0 = false ∧
    (Instr.rdRtc 0xc000).wf { m0 with rtcSel := 8 } = false ∧ (Instr.rdWramx 0xd000).wf m0 = false ∧
    (Instr.rdWramx 0xe000).wf { m0 with wramBank := 2 } = false ∧ (Instr.rdSnd 0xff27).wf m0 = false ∧
    (Instr.rdSnd 0xff40).wf m0 = false ∧ (Instr.rdFlat 0x4000).wf m0 = false ∧ (Instr.rdFlat 0xff10).wf m0 = false ∧
    (Instr.rdFlat 0xff69).wf m0 = false ∧ (Instr.rdFlat 0xd000).wf { m0 with wramBank := 2 } = false := by decide

theorem test_wf_commands :
    (Instr.wcNopLow 0x2000 0).wf m0 = false ∧ (Instr.wcNopKind 0x2000 0).wf m0 = false ∧ (Instr.wcNopKind 0x1fff 0).wf m5 = false ∧
    (Instr.wcMbc1Romb 0x2000 0).wf m1 = false ∧ (Instr.wcMbc1Romb 0x4000 0).wf m0 = false ∧
    (Instr.wcMbc3Romb 0x2000 0).wf m0 = false ∧ (Instr.wcMbc3Romb 0x1fff 0).wf m1 = false ∧
    (Instr.wcMbc1Romhi 0x4000 0).wf { m0 with bankMode := true } = false ∧ (Instr.wcMbc1Romhi 0x6000 0).wf m0 = false ∧
    (Instr.wcMbc1Romhi 0x4000 0).wf m1 = false ∧ (Instr.wcMbc1Ramb 0x4000 0).wf m0 = false ∧
    (Instr.wcMbc1Ramb 0x4000 0).wf { m1 with bankMode := true } = false ∧
    (Instr.wcMbc1Ramb 0x3fff 0).wf { m0 with bankMode := true } = false ∧ (Instr.wcMbc3Ramb 0x4000 8).wf m1 = false ∧
    (Instr.wcMbc3Ramb 0x4000 7).wf m0 = false ∧ (Instr.wcMbc3Rtcsel 0x4000 7).wf m1 = false ∧
    (Instr.wcMbc3Rtcsel 0x4000 0x0d).wf m1 = false ∧ (Instr.wcMbc3Rtcsel 0x4000 8).wf m0 = false := by decide

theorem test_wf_commands_and_stores :
    (Instr.wcMbc3Ramb 0x6000 0).wf m1 = false ∧ (Instr.wcMbc3Rtcsel 0x6000 8).wf m1 = false ∧
    (Instr.wcMbc3Secign 0x4000 0x0c).wf m1 = false ∧ (Instr.wcMbc3Secign 0x4000 0x0d).wf m0 = false ∧
    (Instr.wcMbc3Secign 0x6000 0x0d).wf m1 = false ∧ (Instr.wcMbc1Mode 0x6000 0).wf m1 = false ∧
    (Instr.wcMbc1Mode 0x8000 0).wf m0 = false ∧ (Instr.wcMbc3Latch 0x6000 0).wf m0 = false ∧
    (Instr.wcMbc3Latch 0x5fff 0).wf m1 = false ∧ (Instr.wmVram 0xa000 0).wf m0 = false ∧ (Instr.wmEram 0x9fff 0).wf m0 = false ∧
    (Instr.wmEram 0xa000 0).wf { m0 with rtcSel := 8 } = false ∧ (Instr.wmRtc 0xa000 0).wf m0 = false ∧
    (Instr.wmRtc 0xc000 0).wf { m0 with rtcSel := 8 } = false ∧ (Instr.wmWramx 0xd000 0).wf m0 = false ∧
    (Instr.wmWramx 0xcfff 0).wf { m0 with wramBank := 7 } = false ∧ (Instr.wmSndReg 0xff27 0).wf m0 = false ∧
    (Instr.wmSndWave 0xff40 0).wf m0 = false ∧ (Instr.wmFlat 0xbfff 0).wf m0 = false ∧ (Instr.wmFlat 0xff3f 0).wf m0 = false ∧
    (Instr.wmFlat 0xd000 0).wf { m0 with wramBank := 2 } = false ∧ (Instr.wmFlat 0xff46 0).wf m0 = false := by decide

/-! ## Decoding: words written out from the encodings of R90 and R102 (`dir addr data`) -/

theorem test_decode_reads :
    decode m0 (0b0_0000000000000000_00000000) = .rdFlat 0x0000 ∧
    decode m0 (0b0_0011111111111111_00000000) = .rdFlat 0x3fff ∧
    decode m0 (0b0_0100000000000000_00000000) = .rdRomx 0x4000 ∧
    decode m0 (0b0_0111111111111111_00000000) = .rdRomx 0x7fff ∧
    decode m0 (0b0_1000000000000000_00000000) = .rdVram 0x8000 ∧
    decode m0 (0b0_1001111111111111_00000000) = .rdVram 0x9fff ∧
    decode m0 (0b0_1010000000000000_00000000) = .rdEram 0xa000 ∧
    decode { m1 with rtcSel := 12 } (0b0_1011111111111111_00000000) = .rdRtc 0xbfff ∧
    decode m0 (0b0_1101000000000000_00000000) = .rdFlat 0xd000 ∧
    decode { m0 with wramBank := 2 } (0b0_1101111111111111_00000000) = .rdWramx 0xdfff ∧
    decode m0 (0b0_1111111100010000_00000000) = .rdSnd 0xff10 ∧
    decode m0 (0b0_1111111100100110_00000000) = .rdSnd 0xff26 ∧
    decode m0 (0b0_1111111100100111_00000000) = .rdFlat 0xff27 ∧
    decode m0 (0b0_1111111100111111_00000000) = .rdSnd 0xff3f := by decide

theorem test_decode_named_reads :
    decode m0 (0b0_1111111101000000_00000000) = .rdLcdc ∧
    decode m0 (0b0_1111111101000001_00000000) = .rdStat ∧
    decode m0 (0b0_1111111101101000_00000000) = .rdFlat 0xff68 ∧
    decode m0 (0b0_1111111101101001_00000000) = .rdBgpd ∧
    decode m0 (0b0_1111111101101011_00000000) = .rdObpd ∧
    decode m0 (0b0_1111111101010101_00000000) = .rdFlat 0xff55 ∧
    decode m0 (0b0_1111111111111111_00000000) = .rdFlat 0xffff := by decide

theorem test_decode_commands :
    decode m0 (0b1_0000000000000000_00001010) = .wcNopLow 0x0000 0x0a ∧
    decode m0 (0b1_0001111111111111_11111111) = .wcNopLow 0x1fff 0xff ∧
    decode m5 (0b1_0010000000000000_00000101) = .wcNopKind 0x2000 0x05 ∧
    decode { m0 with kind := .other } (0b1_0111111111111111_00000001) = .wcNopKind 0x7fff 0x01 ∧
    decode m0 (0b1_0010000000000000_00000011) = .wcMbc1Romb 0x2000 0x03 ∧
    decode m0 (0b1_0011111111111111_00000111) = .wcMbc1Romb 0x3fff 0x07 ∧
    decode m1 (0b1_0010000000000000_10000000) = .wcMbc3Romb 0x2000 0x80 ∧
    decode m0 (0b1_0100000000000000_00000001) = .wcMbc1Romhi 0x4000 0x01 ∧
    decode { m0 with bankMode := true } (0b1_0101111111111111_00000011) = .wcMbc1Ramb 0x5fff 0x03 ∧
    decode m1 (0b1_0100000000000000_00000111) = .wcMbc3Ramb 0x4000 0x07 ∧
    decode m1 (0b1_0100000000000000_00001000) = .wcMbc3Rtcsel 0x4000 0x08 ∧
    decode m1 (0b1_0100000000000000_00001100) = .wcMbc3Rtcsel 0x4000 0x0c ∧
    decode m1 (0b1_0100000000000000_00001101) = .wcMbc3Secign 0x4000 0x0d ∧
    decode m0 (0b1_0110000000000000_00000001) = .wcMbc1Mode 0x6000 0x01 ∧
    decode m1 (0b1_0111111111111111_11111111) = .wcMbc3Latch 0x7fff 0xff := by decide

theorem test_decode_stores :
    decode m0 (0b1_1000000000000000_00010001) = .wmVram 0x8000 0x11 ∧
    decode m0 (0b1_1010000100100011_01110111) = .wmEram 0xa123 0x77 ∧
    decode { m1 with rtcSel := 9 } (0b1_1010000000000000_00111011) = .wmRtc 0xa000 0x3b ∧
    decode { m0 with wramBank := 2 } (0b1_1101111111111111_01100111) = .wmWramx 0xdfff 0x67 ∧
    decode m0 (0b1_1101000000000000_01000100) = .wmFlat 0xd000 0x44 ∧
    decode m0 (0b1_1111111100010001_10000000) = .wmSndReg 0xff11 0x80 ∧
    decode m0 (0b1_1111111100100110_10000000) = .wmSndReg 0xff26 0x80 ∧
    decode m0 (0b1_1111111100110000_00010010) = .wmSndWave 0xff30 0x12 ∧
    decode m0 (0b1_1111111000000000_10011001) = .wmFlat 0xfe00 0x99 ∧
    decode m0 (0b1_1111111111111111_11111111) = .wmFlat 0xffff 0xff := by decide

theorem test_decode_named_stores :
    decode m0 (0b1_1111111101000000_10010001) = .wmLcdc 0x91 ∧
    decode m0 (0b1_1111111101000001_11111111) = .wmStat 0xff ∧
    decode m0 (0b1_1111111101000110_10000000) = .wmDma 0x80 ∧
    decode m0 (0b1_1111111101001111_00000001) = .wmVbk 0x01 ∧
    decode m0 (0b1_1111111101010001_11000000) = .wmHdma1 0xc0 ∧
    decode m0 (0b1_1111111101010010_00000101) = .wmHdma2 0x05 ∧
    decode m0 (0b1_1111111101010011_00000001) = .wmHdma3 0x01 ∧
    decode m0 (0b1_1111111101010100_00100000) = .wmHdma4 0x20 ∧
    decode m0 (0b1_1111111101010101_00000000) = .wmHdma5 0x00 ∧
    decode m0 (0b1_1111111101101000_10001000) = .wmBgpi 0x88 ∧
    decode m0 (0b1_1111111101101001_00011111) = .wmBgpd 0x1f ∧
    decode m0 (0b1_1111111101101010_10000000) = .wmObpi 0x80 ∧
    decode m0 (0b1_1111111101101011_00000001) = .wmObpd 0x01 ∧
    decode m0 (0b1_1111111101110000_00000011) = .wmSvbk 0x03 := by decide

theorem test_decode_rejects_wider_numbers :
    decodeNat m0 0x2000000 = .error .notATransactionWord ∧ decodeTableWord 32 0x2000000 = none ∧
    decodeTableWord 32 0x0400000 = some (.rdRomx 0x4000) := ⟨rfl, rfl, rfl⟩

theorem test_mode_at_reset : State.reset.mode = Mode.atReset := by decide

theorem test_withFetchWord_runs_next :
    step (State.reset.withFetchWord 32 0x1c0005a) = exec (.wmFlat 0xc000 0x5a) State.reset := rfl

/-! ## One step at a time -/

/-- T1 to T6 of 95_test_vectors.md section 1. -/
def c1 : Config := { Config.reference with kind := .mbc3, romClass := 1, nRomBanks := 4 }
def c2 : Config := { Config.reference with color := false }
def c3 : Config := { Config.reference with romClass := 6, nRomBanks := 128 }
def c4 : Config := { Config.reference with romClass := 7 }
def c5 : Config :=
  { Config.reference with kind := .noController, romClass := 0, ramClass := 0, color := false, nRomBanks := 2, nEramBanks := 0 }
def c6 : Config := { Config.reference with kind := .mbc3, romClass := 0, nRomBanks := 2 }

/-- T0 with the object-attribute table elsewhere. -/
def cMoved : Config := { Config.reference with regs := { AddrMap.default with oam := 0xc123 } }

def s0 : State := .reset
def s1 : State := { s0 with cfg := c1 }

/-- The state after one transaction. -/
def after (w : TWord) (s : State) : State :=
  match step (s.withFetchWord 25 w.toNat) with
  | .next t => t
  | _ => s

theorem test_rdRomx : (after 0x0400500 { s0 with romBank := 3, rom := [(0xc005, 0x35)] }).response = some 0x35 := by decide
theorem test_rdRomx_missing_bank :
    (after 0x0400000 { s0 with romBank := 8 }).fault = some (.bankOutOfRange .rom 8) := by decide
theorem test_rdVram_bank_1 : (after 0x09fff00 { s0 with vramBank := 1, vram := [(0x3fff, 0xab)] }).response = some 0xab := by decide
theorem test_rdEram_bank_3 : (after 0x0bfff00 { s0 with ramBank := 3, eram := [(0x7fff, 0x33)] }).response = some 0x33 := by decide
theorem test_rdEram_missing_bank :
    (after 0x0a00000 { s0 with ramBank := 4 }).fault = some (.bankOutOfRange .eram 4) ∧
    (after 0x0a00000 { s0 with cfg := c5 }).fault = some (.bankOutOfRange .eram 0) := by decide
theorem test_rdRtc_any_address (a : Addr) (h : decode { m1 with rtcSel := 9 } (readWord a) = .rdRtc a) :
    step (({ s1 with rtcSel := 9 } : State).withFetchWord 25 (readWord a).toNat) =
      .next { s1 with rtcSel := 9, response := some (Config.clockRead [] 9) } := by
  have e : BitVec.ofNat 25 (readWord a).toNat = readWord a := BitVec.ofNat_toNat ..
  unfold step State.withFetchWord
  simp only [e]
  exact congrArg (fun i => exec i _) h
theorem test_rdWramx : (after 0x0d00000 { s0 with wramBank := 2, wram := [(0x2000, 0x66)], flat := [(0xd000, 0x44)] }).response =
    some 0x66 := by decide
theorem test_rdSnd : (after 0x0ff2600 s0).response = some (Config.soundRead [] 0xff26) := rfl
theorem test_rdLcdc_not_the_flat_cell : (after 0x0ff4000 { s0 with lcdc := 0x80, flat := [(0xff40, 0x91)] }).response = some 0x80 := by
  decide
theorem test_rdStat : (after 0x0ff4100 { s0 with stat := 0x05 }).response = some 0x05 := by decide
theorem test_rdBgpd_does_not_advance :
    (after 0x0ff6900 { s0 with bgIdx := 9, bgInc := true, bgPal := [(9, 0x7f)] }).response = some 0x7f ∧
    (after 0x0ff6900 { s0 with bgIdx := 9, bgInc := true }).bgIdx = 9 := by decide
theorem test_rdObpd : (after 0x0ff6b00 { s0 with obIdx := 63, obPal := [(63, 0x12)] }).response = some 0x12 := by decide
theorem test_rdFlat_no_echo : (after 0x0e00000 { s0 with flat := [(0xc000, 0x5a)] }).response = some 0x00 := by decide
theorem test_rdFlat : (after 0x0d00000 { s0 with flat := [(0xd000, 0x44)], wram := [(0x1000, 0x99)] }).response = some 0x44 := by decide

theorem test_wcNopLow : after 0x100000a s0 = s0 ∧ after 0x10005ff s1 = s1 := by decide
theorem test_wcNopKind : after 0x1200005 { s0 with cfg := { c5 with romClass := 9 } } = { s0 with cfg := { c5 with romClass := 9 } } := by
  decide
theorem test_wcMbc1Romb :
    (after 0x1200003 s0).romBank = 3 ∧ (after 0x12000e5 { s0 with romBank := 7 }).romBank = 5 ∧
    (after 0x1200008 { s0 with romBank := 7 }).romBank = 7 ∧ (after 0x1200020 { s0 with romBank := 5 }).romBank = 0 := by decide
theorem test_wcMbc1Romb_zero_and_high_bits :
    (after 0x1200000 { s0 with romBank := 3 }).romBank = 1 ∧
    (after 0x1200000 { s0 with cfg := c3, romBank := 0x7f }).romBank = 0x61 ∧
    (after 0x120001f { s0 with cfg := c3, romBank := 0x23 }).romBank = 0x3f := by decide
theorem test_wcMbc3Romb :
    (after 0x1200082 s1).romBank = 2 ∧ (after 0x1200080 { s1 with romBank := 3 }).romBank = 1 ∧
    (after 0x1200004 { s1 with romBank := 3 }).romBank = 3 ∧ (after 0x120007f s1).romBank = 1 := by decide
theorem test_wcMbc3Romb_class_0 : after 0x1200002 { s1 with cfg := c6 } = { s1 with cfg := c6 } := by decide
theorem test_wcMbc1Romhi :
    (after 0x1400001 s0).romBank = 1 ∧ (after 0x1400001 { s0 with cfg := c3, romBank := 3 }).romBank = 0x23 ∧
    (after 0x1400007 { s0 with cfg := c3, romBank := 0x1f }).romBank = 0x7f := by decide
theorem test_wcMbc1Romhi_fatal :
    after 0x1400000 { s0 with cfg := c4 } = { s0 with cfg := c4, fault := some (.configFatal .mbc1 7 3) } := by decide
theorem test_wcMbc1Ramb :
    after 0x14000ff { s0 with bankMode := true } = { s0 with bankMode := true, ramBank := 0xff } := by decide
theorem test_wcMbc3Ramb : after 0x1400002 { s1 with rtcSel := 12, ramBank := 1 } = { s1 with ramBank := 2 } := by decide
theorem test_wcMbc3Rtcsel : after 0x140000c { s1 with ramBank := 2 } = { s1 with ramBank := 2, rtcSel := 12 } := by decide
theorem test_wcMbc3Secign : after 0x1400010 { s1 with rtcSel := 12, ramBank := 2 } = { s1 with rtcSel := 12, ramBank := 2 } := by decide
theorem test_wcMbc1Mode :
    (after 0x1600001 s0).bankMode = true ∧ (after 0x1600002 { s0 with bankMode := true }).bankMode = true ∧
    after 0x17fff00 { s0 with bankMode := true, ramBank := 3 } = { s0 with ramBank := 3 } := by decide
theorem test_wcMbc3Latch :
    (after 0x17fff01 s1).rtc = [.latch] ∧ (after 0x1600001 (after 0x1600001 s1)).rtc = [.latch, .latch] ∧
    after 0x1600003 s1 = s1 ∧ after 0x1600000 s1 = s1 := by decide

theorem test_wmVram : (after 0x19fffab { s0 with vramBank := 1 }).vram = [(0x3fff, 0xab)] := by decide
theorem test_wmEram : (after 0x1a12377 { s0 with ramBank := 3 }).eram = [(0x6123, 0x77)] := by decide
theorem test_wmEram_missing_bank :
    after 0x1a00000 { s1 with ramBank := 7 } = { s1 with ramBank := 7, fault := some (.bankOutOfRange .eram 7) } := by decide
theorem test_wmRtc :
    after 0x1bfff07 { s1 with rtcSel := 9, eram := [(0, 0x55)] } =
      { s1 with rtcSel := 9, eram := [(0, 0x55)], rtc := [.write 9 0x07] } := by decide
theorem test_wmWramx :
    after 0x1d00066 { s0 with wramBank := 2, flat := [(0xd000, 0x44)] } =
      { s0 with wramBank := 2, flat := [(0xd000, 0x44)], wram := [(0x2000, 0x66)] } := by decide
theorem test_wmFlat : (after 0x1d00044 s0).flat = [(0xd000, 0x44)] ∧ (after 0x1c00000 { s0 with flat := [(0xc000, 0x5a)] }).flat = [] := by
  decide
theorem test_wmLcdc : after 0x1ff4091 s0 = { s0 with lcdc := 0x91, flat := [(0xff40, 0x91)] } := by decide
theorem test_wmStat : after 0x1ff41ff s0 = { s0 with stat := 0xff, flat := [(0xff41, 0xff)] } := by decide
theorem test_wmBgpi : after 0x1ff68c9 s0 = { s0 with bgIdx := 9, bgInc := true, flat := [(0xff68, 0xc9)] } := by decide
theorem test_wmBgpd :
    after 0x1ff697f { s0 with bgIdx := 63, bgInc := true } =
      { s0 with bgIdx := 0, bgInc := true, bgPal := [(63, 0x7f)], flat := [(0xff69, 0x7f)] } := by decide
theorem test_wmObpi : after 0x1ff6a40 { s0 with obInc := true } = { s0 with obIdx := 0, flat := [(0xff6a, 0x40)] } := by decide
theorem test_wmObpd :
    after 0x1ff6b01 { s0 with obIdx := 5, bgInc := true } =
      { s0 with obIdx := 5, bgInc := true, obPal := [(5, 0x01)], flat := [(0xff6b, 0x01)] } := by decide
theorem test_wmSndReg : after 0x1ff1180 s0 = { s0 with snd := [.write 0xff11 0x80], flat := [(0xff11, 0x80)] } := by decide
theorem test_wmSndWave : after 0x1ff3f34 s0 = { s0 with snd := [.writeWave 0xff3f 0x34], flat := [(0xff3f, 0x34)] } := by decide
theorem test_wmVbk :
    after 0x1ff4fff s0 = { s0 with vramBank := 1, flat := [(0xff4f, 0xff)] } ∧
    after 0x1ff4f01 { s0 with cfg := c2 } = { s0 with cfg := c2, flat := [(0xff4f, 0x01)] } := by decide
theorem test_wmSvbk :
    (after 0x1ff7008 { s0 with wramBank := 3 }).wramBank = 1 ∧ (after 0x1ff70ff s0).wramBank = 7 ∧
    after 0x1ff7003 { s0 with cfg := c2 } = { s0 with cfg := c2, flat := [(0xff70, 0x03)] } := by decide
theorem test_wmHdma1_to_4 :
    after 0x1ff51c0 s0 = { s0 with flat := [(0xff51, 0xc0)] } ∧ after 0x1ff5205 s0 = { s0 with flat := [(0xff52, 0x05)] } ∧
    after 0x1ff5301 s0 = { s0 with flat := [(0xff53, 0x01)] } ∧ after 0x1ff5420 s0 = { s0 with flat := [(0xff54, 0x20)] } := by decide

/-- S5: the last byte copied, the byte after it not copied, the trigger byte stored, 150 cycles. -/
theorem test_wmDma :
    after 0x1ff4680 { s0 with vram := [(0, 0x01), (0x9f, 0xa0), (0xa0, 0xa1)], flat := [(0xfea0, 0xee)], cycles := 1000 } =
      { s0 with
        vram := [(0, 0x01), (0x9f, 0xa0), (0xa0, 0xa1)], cycles := 1150,
        flat := [(0xfe00, 0x01), (0xfe9f, 0xa0), (0xfea0, 0xee), (0xff46, 0x80)] } := by decide +kernel
/-- The table is where the parameter `A_OAM` puts it (R8, R181). -/
theorem test_wmDma_moved_table :
    after 0x1ff4680 { s0 with cfg := cMoved, vram := [(0, 0x01), (0x9f, 0xa0), (0xa0, 0xa1)] } =
      { s0 with
        cfg := cMoved, vram := [(0, 0x01), (0x9f, 0xa0), (0xa0, 0xa1)], cycles := 150,
        flat := [(0xc123, 0x01), (0xc1c2, 0xa0), (0xff46, 0x80)] } := by decide +kernel
/-- Section 8, source page 0xff: each byte comes through the decoder, the trigger cell as just stored. -/
theorem test_wmDma_io_page :
    (copyBytes 7 0xff40 0xfe40 { s0 with lcdc := 0x91, flat := [(0xff40, 0x12), (0xff46, 0xff)] }).toOption =
      some { s0 with lcdc := 0x91, flat := [(0xfe40, 0x91), (0xfe46, 0xff), (0xff40, 0x12), (0xff46, 0xff)] } := by decide
/-- S6: 16 bytes from 0xc000 to 0x8120, the sentinel, the byte after the range not copied. -/
theorem test_wmHdma5 :
    after 0x1ff5500 { s0 with
      flat := [(0xc000, 0xa0), (0xc00f, 0xaf), (0xc010, 0xb0), (0xff51, 0xc0), (0xff52, 0x05), (0xff53, 0x01), (0xff54, 0x20)] } =
      { s0 with
        vram := [(0x120, 0xa0), (0x12f, 0xaf)],
        flat := [(0xc000, 0xa0), (0xc00f, 0xaf), (0xc010, 0xb0), (0xff51, 0xc0), (0xff52, 0x05), (0xff53, 0x01), (0xff54, 0x20),
          (0xff55, 0xff)] } := by decide +kernel
/-- Section 11: eight bytes reach video RAM, the ninth faults, the sentinel is not written. -/
theorem test_wmHdma5_faults_midway :
    after 0x1ff5501 { s0 with
      ramBank := 0xff, flat := [(0xc007, 0x77), (0xc008, 0x88), (0xff51, 0xc0), (0xff53, 0x1f), (0xff54, 0xf8)] } =
      { s0 with
        ramBank := 0xff, vram := [(0x1fff, 0x77)], fault := some (.bankOutOfRange .eram 255),
        flat := [(0xc007, 0x77), (0xc008, 0x88), (0xff51, 0xc0), (0xff53, 0x1f), (0xff54, 0xf8), (0xff55, 0x01)] } := by decide +kernel

/-- Nothing follows a fault (R59), and a machine with nothing put to it stays as it is. -/
theorem test_step_after_fault :
    step ({ s0 with fault := some (.bankOutOfRange .eram 4) } : State) = .fault (.bankOutOfRange .eram 4) ∧ step s0 = .next s0 := by
  constructor <;> rfl
theorem test_env : step ({ s0 with inputs := [.env (.cycles 7)] } : State) = .next { s0 with cycles := 7 } := by rfl

/-! ## The opcode table -/

theorem test_table_has_43_mnemonics : ((opcodeTable .default).map (·.mnemonic)).dedup.length = 43 := by decide
theorem test_table_priority : (tableSelect m1 0x140000c).map (·.mnemonic) = ["WC.MBC3.RTCSEL"] ∧
    (tableSelect m1 0x140000d).map (·.mnemonic) = ["WC.MBC3.SECIGN"] ∧
    (tableSelect m0 0x0ff4000).map (·.mnemonic) = ["RD.LCDC"] := by decide

/-! ## Witnesses: concrete states and operands that meet the hypotheses of the statements, at the boundaries of each clause -/

/-- Well-formed maps: the default one, one with the table elsewhere, and one whose registers stand at the edges that R8 allows. -/
def edgeMap : AddrMap :=
  ⟨0xfe00, 0xffff, 0xe000, 0xfdff, 0xfea0, 0xff0f, 0xff27, 0xff2f, 0xff40, 0xff41, 0xff42, 0xff43, 0xff44, 0xff45, 0xff46⟩
theorem witness_map : AddrMap.default.wf = true ∧ edgeMap.wf = true ∧ cMoved.regs.wf = true ∧ Mode.atReset.regs.wf = true := by decide
/-- `DecodeOfEncodeIsTheInstruction`: an operation at the edge of each kind of window. -/
theorem witness_wf_operation :
    (Instr.rdFlat 0xffff).wf m0 = true ∧ (Instr.rdRomx 0x7fff).wf m0 = true ∧ (Instr.rdRtc 0xa000).wf { m1 with rtcSel := 12 } = true ∧
    (Instr.wcMbc3Ramb 0x4000 7).wf m1 = true ∧ (Instr.wcMbc3Rtcsel 0x5fff 0x0c).wf m1 = true ∧
    (Instr.wcMbc3Secign 0x4000 0x0d).wf m1 = true ∧ (Instr.wmWramx 0xdfff 0).wf { m0 with wramBank := 7 } = true ∧
    (Instr.wmFlat 0xc000 0).wf m0 = true ∧ (Instr.wmHdma5 0xff).wf { m0 with regs := edgeMap } = true := by decide

/-- The state with a transaction issued, and a change of the environment after it. -/
def issue (s : State) (w : TWord) : State := { s with inputs := [.transaction w, .env (.cycles 1)] }
/-- `StepRunsTheDecodedTransaction`, `EveryTransactionEnds`: a read that returns, a read that faults, a write. -/
theorem witness_issued :
    Claims.issued (issue s0 0x0400000) 0x0400000 [.env (.cycles 1)] ∧
    (after 0x0400000 s0).fault = none ∧ (after 0x0400000 s0).response = some 0 ∧
    (after 0x0a00000 { s0 with ramBank := 4 }).fault ≠ none ∧ (after 0x0a00000 { s0 with ramBank := 4 }).response = none ∧
    (after 0x1ffffff s0).fault = none ∧ (after 0x1ffffff s0).response = none := by
  refine ⟨⟨rfl, rfl⟩, ?_⟩; decide
/-- `RecordedFaultStopsTheMachine`: both kinds of state. -/
theorem witness_fault_record :
    step ({ s0 with fault := some (.configFatal .mbc1 7 3) } : State) = .fault (.configFatal .mbc1 7 3) ∧
    s0.fault = none ∧ step s0 = .next s0 := ⟨rfl, rfl, rfl⟩
/-- `FaultsAreTheListedOnes`: each clause is met, with the first number that names no bank or class. -/
theorem witness_faults :
    (∃ t, exec (.wcMbc1Romb 0x2000 1) { s0 with cfg := c4 } = .next t ∧ t.fault = some (.configFatal .mbc1 7 3)) ∧
    (∃ t, exec (.rdRomx 0x4000) { s0 with romBank := 8 } = .next t ∧ t.fault = some (.bankOutOfRange .rom 8)) ∧
    (∃ t, exec (.wmEram 0xbfff 0) { s0 with ramBank := 4 } = .next t ∧ t.fault = some (.bankOutOfRange .eram 4)) ∧
    (∃ t, exec (.wmDma 0x7f) { s0 with romBank := 8 } = .next t ∧ t.fault = some (.bankOutOfRange .rom 8)) ∧
    (∃ t, exec (.wmDma 0xbf) { s0 with ramBank := 4 } = .next t ∧ t.fault = some (.bankOutOfRange .eram 4)) :=
  ⟨⟨_, rfl, rfl⟩, ⟨_, rfl, rfl⟩, ⟨_, rfl, rfl⟩, ⟨_, rfl, rfl⟩, ⟨_, rfl, rfl⟩⟩

/-- A legal state of T1 with every pointer at its greatest value there. -/
def legal1 : State :=
  { s1 with
    romBank := 3, ramBank := 7, rtcSel := 12, wramBank := 7, vramBank := 1, bgIdx := 63, obIdx := 63,
    eram := [(0x7fff, 0x55)], vram := [(0x3fff, 1)], wram := [(0x7fff, 2)], bgPal := [(63, 3)], rom := [(0xffff, 4)],
    flat := [(0xffff, 5)] }
/-- `StepKeepsLegal`, `WellFormedConfigurationNeverFaults`, the legality clauses of the read statements. -/
theorem witness_legal :
    legal1.Legal ∧ legal1.cfg.romClassKnown = true ∧ legal1.eramWindowOpen = true ∧
    ∃ t, step (issue legal1 0x1a00007) = .next t ∧ t.fault = none := by
  refine ⟨⟨by decide, ?_, ?_⟩, by decide, by decide, ⟨_, rfl, rfl⟩⟩
  · constructor <;> decide
  · constructor <;> decide
/-- A legal state of T5: no controller, out of colour mode, class 0. -/
theorem witness_legal_plain : ({ s0 with cfg := c5 } : State).Legal ∧ ({ s0 with cfg := c5 } : State).cfg.color = false := by
  refine ⟨⟨by decide, ?_, ?_⟩, rfl⟩
  · constructor <;> decide
  · constructor <;> decide
/-- `ConfigurationNeverChanges`, `RomAndFixedCellsNeverChange`, `OnlyObjectMemoryDmaCostsCycles`: a step with a next state, over a
well-formed map; and a trigger write that is charged. -/
theorem witness_next_step :
    (∃ t, step (issue s0 0x1ff4680) = .next t ∧ t.cycles = 150) ∧ (∃ t, step (issue s0 0x1ff5500) = .next t ∧ t.cycles = 0) ∧
    s0.cfg.regs.wf = true := ⟨⟨_, rfl, by decide +kernel⟩, ⟨_, rfl, by decide +kernel⟩, by decide⟩
/-- `FixedBankPremiseIsKept`: a launch state whose fixed bank is loaded, one whose is not, and a step. -/
def loaded : State := { s0 with rom := [(5, 0x35), (0x4000, 0x40)], flat := [(5, 0x35), (0xc000, 0x5a)] }
theorem witness_fixed_bank :
    loaded.FixedBankLoaded ∧ ¬ ({ loaded with flat := [] } : State).FixedBankLoaded ∧ loaded.cfg.regs.wf = true ∧
    (after 0x0000500 loaded).response = some 0x35 ∧ (0x3fff : Addr).toNat < 0x4000 ∧
    ∃ t, step (issue loaded 0x1400001) = .next t ∧ t.FixedBankLoaded := by
  have h : loaded.FixedBankLoaded := by
    intro k hk
    have h1 : 0xc000 ≠ k := by omega
    have h2 : 0x4000 ≠ k := by omega
    simp [loaded, Memory.read, h1, h2]
  exact ⟨h, fun n => absurd (n 5 (by decide)) (by decide), by decide, by decide, by decide, ⟨_, rfl, h⟩⟩
/-- `ReadIsSideEffectFree`: both ends of a read. -/
theorem witness_read :
    TWord.isWrite 0x0400000 = false ∧ (∃ t, step (issue s0 0x0400000) = .next t ∧ t.fault = none) ∧
    (∃ t, step (issue { s0 with romBank := 8 } 0x0400000) = .next t ∧ t.fault = some (.bankOutOfRange .rom 8)) :=
  ⟨by decide, ⟨_, rfl, rfl⟩, ⟨_, rfl, rfl⟩⟩
/-- `CommandStoresNothing`: the last command address. -/
theorem witness_command :
    TWord.isWrite 0x17fff01 = true ∧ (TWord.addr 0x17fff01).toNat ≤ 0x7fff ∧
    ∃ t, step (issue s0 0x17fff01) = .next t ∧ t.bankMode = true := ⟨by decide, by decide, ⟨_, rfl, rfl⟩⟩
/-- `OnlyBankSwitchMovesTheRomPointer`: a command that moves it to the last bank below the limit. -/
theorem witness_pointer_moves : ∃ t, exec (.wcMbc1Romb 0x2000 7) s0 = .next t ∧ t.romBank ≠ s0.romBank ∧ t.romBank = 7 :=
  ⟨_, rfl, by decide, by decide⟩
/-- `EnvironmentChangesOnlySharedState`: a change waiting, and nothing waiting. -/
theorem witness_environment :
    ({ s0 with inputs := [.env (.vram 1 0x1fff 7)] } : State).fault = none ∧
    (∃ t, step { s0 with inputs := [.env (.vram 1 0x1fff 7)] } = .next t ∧ t.vram = [(0x3fff, 7)]) ∧ s0.inputs = [] :=
  ⟨rfl, ⟨_, rfl, by decide⟩, rfl⟩
/-- `MappedClockHidesExternalRam`, `ReadMappedClock`, `StoreMappedClock`. -/
theorem witness_mapped_clock :
    legal1.rtcSel ≠ 0 ∧ legal1.cfg.kind = .mbc3 ∧ within 0xa000 0xc000 0xa000 = true ∧ within 0xa000 0xc000 0xbfff = true ∧
    (∃ t, step (issue legal1 0x1a00007) = .next t ∧ t.rtcSel ≠ 0) ∧ (3 : Byte).toNat < legal1.cfg.nEramBanks := by
  refine ⟨by decide, by decide, by decide, by decide, ⟨_, rfl, by decide⟩, by decide⟩
/-- `Mbc3SecondaryCommands`: a transaction that unmaps the clock. -/
theorem witness_unmap :
    ∃ t, exec (decode legal1.mode 0x15fff07) legal1 = .next t ∧ legal1.rtcSel ≠ 0 ∧ t.rtcSel = 0 := ⟨_, rfl, by decide, by decide⟩
/-- `ReadRomWindow`, `ReadVideoRam`, `ReadExternalRam`, `StoreVideoRam`, `StoreExternalRam`: both ends of each window, the last bank and
the first missing one. -/
theorem witness_windows :
    within 0x4000 0x8000 0x4000 = true ∧ within 0x4000 0x8000 0x7fff = true ∧ within 0x8000 0xa000 0x8000 = true ∧
    within 0x8000 0xa000 0x9fff = true ∧ s0.rtcSel = 0 ∧ within 0xa000 0xc000 0xbfff = true ∧
    ({ s0 with romBank := 7 } : State).romBank.toNat < s0.cfg.nRomBanks ∧
    s0.cfg.nRomBanks ≤ ({ s0 with romBank := 8 } : State).romBank.toNat ∧
    ({ s0 with ramBank := 3 } : State).ramBank.toNat < s0.cfg.nEramBanks ∧
    s0.cfg.nEramBanks ≤ ({ s0 with ramBank := 4 } : State).ramBank.toNat := by decide
/-- `ReadBankedWorkingRam`, `StoreBankedWorkingRam`: the lowest and the highest banked pointer, both ends of the window. -/
theorem witness_banked_working_ram :
    1 < ({ s0 with wramBank := 2 } : State).wramBank.toNat ∧ 1 < ({ s0 with wramBank := 7 } : State).wramBank.toNat ∧
    within 0xd000 0xe000 0xd000 = true ∧ within 0xd000 0xe000 0xdfff = true ∧ s0.wramBank.toNat ≤ 1 ∧
    (after 0x0d00000 { s0 with flat := [(0xd000, 0x44)], wram := [(0x1000, 0x99)] }).response = some 0x44 := by decide
/-- `ReadSoundWindow`, `WriteSoundRegisters`, `WriteWaveform`: both ends of both windows. -/
theorem witness_sound_windows :
    inSoundWindows 0xff10 = true ∧ inSoundWindows 0xff26 = true ∧ inSoundWindows 0xff30 = true ∧ inSoundWindows 0xff3f = true ∧
    within 0xff10 0xff27 0xff26 = true ∧ within 0xff30 0xff40 0xff30 = true := by decide
/-- `ReadFlatCell`, `StoreFlatCell`, `ReadBankedWorkingRam` with the pointer at 1: a plain address beside each window, and a trigger
write that completes. -/
theorem witness_flat :
    (Instr.rdFlat 0x3fff).wf m0 = true ∧ (Instr.rdFlat 0xc000).wf m0 = true ∧ (Instr.rdFlat 0xdfff).wf m0 = true ∧
    (Instr.rdFlat 0xff27).wf m0 = true ∧ (Instr.wmFlat 0xc000 1).wf m0 = true ∧ (Instr.wmFlat 0xff2f 1).wf m0 = true ∧
    (Instr.wmFlat 0xfe00 1).wf m0 = true ∧ s0.wramBank.toNat ≤ 1 ∧ s0.cfg.color = true := by decide
theorem witness_flat_store :
    s0.fault = none ∧ TWord.isWrite 0x1ff5500 = true ∧ regionW s0.mode (TWord.addr 0x1ff5500) = .flat ∧
    ∃ t, exec (decode s0.mode 0x1ff5500) s0 = .next t ∧ t.fault = none := ⟨rfl, by decide, by decide, ⟨_, rfl, by decide +kernel⟩⟩
/-- The command statements: a state of each kind and mode, and words at the edges of each pattern. -/
theorem witness_commands :
    s0.cfg.kind = .mbc1 ∧ s0.bankMode = false ∧ ({ s0 with bankMode := true } : State).bankMode = true ∧ s1.cfg.kind = .mbc3 ∧
    c5.kind = .noController ∧ ({ c5 with kind := .other } : Config).kind = .other ∧
    (0x13fffff &&& 0x1e00000 : TWord) = 0x1200000 ∧ (0x1400007 &&& 0x1e000f8 : TWord) = 0x1400000 ∧
    (0x140000b &&& 0x1e000fc : TWord) = 0x1400008 ∧ (0x140000c &&& 0x1e000ff : TWord) = 0x140000c ∧
    (0x140000d &&& 0x1e00000 : TWord) = 0x1400000 ∧ 0x0d ≤ (TWord.data 0x140000d).toNat := by decide
/-- `switches`: class 0, a candidate just below and at the limit, the last class and the first the list lacks. -/
theorem witness_switches :
    Claims.limits[c6.romClass]? = some 1 ∧ Claims.limits[s0.cfg.romClass]? = some 8 ∧ Claims.limits[6]? = some 128 ∧
    Claims.limits[c4.romClass]? = none ∧ 7 < 8 ∧ ¬ 8 < 8 := by decide
/-- `TransferWritesTriggerNothing`: the last byte of the longest transfer to the highest destination. -/
theorem witness_last_destination :
    2047 < videoLength 0xff ∧ (videoDest 0xff 0xff + BitVec.ofNat 16 2047).toNat = 0xa7fe ∧ (159 : Nat) < 160 := by decide
/-- `OamDmaIsReadAndWriteTransactions`, `VideoDmaIsReadAndWriteTransactions`: over both modes and an edge map. -/
theorem witness_transfers :
    s0.cfg.regs.wf = true ∧ s0.fault = none ∧ s0.cfg.color = true ∧ c2.color = false ∧ c2.regs.wf = true := by decide
/-- `OamDmaCopiesTheSourcePage`: a ROM page and an external-RAM page that can be read, a page that needs neither, and where the table
may begin: at the source's 0xfe00 for every page, its own among them, and elsewhere at a page's end and not inside it. -/
theorem witness_oam_pages :
    (∀ v : Byte, s0.cfg.regs.oam.toNat ≤ v.toNat * 256 ∨ v.toNat * 256 + 160 ≤ s0.cfg.regs.oam.toNat) ∧
    ¬ (cMoved.regs.oam.toNat ≤ (0xc1 : Byte).toNat * 256 ∨ (0xc1 : Byte).toNat * 256 + 160 ≤ cMoved.regs.oam.toNat) ∧
    (0xc0 : Byte).toNat * 256 + 160 ≤ cMoved.regs.oam.toNat ∧ cMoved.regs.oam.toNat ≤ (0xc2 : Byte).toNat * 256 := by
  refine ⟨fun v => ?_, by decide, by decide, by decide⟩
  have : s0.cfg.regs.oam.toNat = 0xfe00 := rfl
  omega
theorem witness_readable_pages :
    s0.romBank.toNat < s0.cfg.nRomBanks ∧ s0.eramWindowOpen = true ∧ legal1.eramWindowOpen = true ∧
    0x40 ≤ (0x7f : Byte).toNat ∧ (0xbf : Byte).toNat < 0xc0 ∧ ¬ (0xfe : Byte).toNat < 0xc0 := by decide
/-- `VideoDmaCopiesDisjointRanges`, `VideoDmaModeBitChangesNothing`: 32 bytes from 0xc000 to the last bytes of the window. -/
def transferring : State := { s0 with flat := [(0xff51, 0xc0), (0xff53, 0x1f), (0xff54, 0xe0)] }
theorem witness_disjoint_transfer :
    let src := videoSource (flatCell transferring 0xff51) (flatCell transferring 0xff52)
    let dst := videoDest (flatCell transferring 0xff53) (flatCell transferring 0xff54)
    transferring.cfg.regs.wf = true ∧ transferring.cfg.color = true ∧ transferring.romBank.toNat < transferring.cfg.nRomBanks ∧
    transferring.eramWindowOpen = true ∧ src = 0xc000 ∧ dst = 0x9fe0 ∧ dst.toNat + videoLength 0x01 ≤ 0xa000 ∧
    (∀ n, n < videoLength 0x01 → ¬ (dst.toNat ≤ (src + BitVec.ofNat 16 n).toNat ∧
      (src + BitVec.ofNat 16 n).toNat < dst.toNat + videoLength 0x01)) ∧
    ∀ n, n < videoLength 0x01 → src + BitVec.ofNat 16 n ≠ transferring.cfg.regs.hdma5 := by decide

end Sys2Proof.Tests
end

section
/-! PROOF. No step changes the configuration (R29): each way a transaction ends, each shared operation and the environment
leave `cfg`, and so does every operation. -/
namespace Sys2Proof.Machine

/-! ## How a transaction ends -/

theorem answer_cfg {s t : State} {r : Except Fault Byte} (h : answer s r = .next t) : t.cfg = s.cfg := by
  obtain ⟨b, -, rfl⟩ | ⟨f, -, rfl⟩ := answer_cases h
  · exact State.respond_cfg s b
  · exact State.raise_cfg s f

theorem answer_ok_cfg {s t : State} {b : Byte} (h : answer s (.ok b) = .next t) : t.cfg = s.cfg := answer_cfg h

theorem finish_cfg {s t : State} {r : Except Fault State} (h : finish s r = .next t) (hr : ∀ u, r = .ok u → u.cfg = s.cfg) :
    t.cfg = s.cfg := by
  obtain ⟨u, hu, rfl⟩ | ⟨f, -, rfl⟩ := finish_cases h
  · exact hr u hu
  · exact State.raise_cfg s f

theorem finish_ok_cfg {s t u : State} (h : finish s (.ok u) = .next t) (hu : u.cfg = s.cfg) : t.cfg = s.cfg :=
  finish_cfg h fun _ e => Except.ok.inj e ▸ hu

/-! ## The shared operations -/

theorem bankSwitch_cfg {s t : State} {c : BitVec 7} (h : bankSwitch s c = .ok t) : t.cfg = s.cfg := by
  obtain rfl | ⟨limit, -, -, -, rfl⟩ := bankSwitch_cases h <;> rfl

theorem storeEram_cfg {s t : State} {a : Addr} {v : Byte} (h : storeEram s a v = .ok t) : t.cfg = s.cfg := by
  unfold storeEram at h
  split at h
  · exact Except.ok.inj h ▸ State.putEram_cfg s _ v
  · cases h

theorem copyBytes_ok_cfg {n : Nat} {src dst : Addr} {s t : State} (h : copyBytes n src dst s = .ok t) : t.cfg = s.cfg := by
  rw [copyBytes_frame.1 t h]

theorem copyBytes_error_cfg {n : Nat} {src dst : Addr} {s t : State} {f : Fault}
    (h : copyBytes n src dst s = .error (f, t)) : t.cfg = s.cfg := by
  rw [copyBytes_frame.2 f t h]

theorem applyEnv_cfg (s : State) (e : EnvEvent) : (s.applyEnv e).cfg = s.cfg := by
  rw [applyEnv_frame]

/-! ## The operations that are more than one store -/

theorem execWmDma_cfg {s t : State} {v : Byte} (h : execWmDma v s = .next t) : t.cfg = s.cfg := by
  obtain ⟨u, hu, rfl⟩ | ⟨f, u, hu, rfl⟩ := execWmDma_cases h
  · simpa using copyBytes_ok_cfg hu
  · simpa using copyBytes_error_cfg hu

theorem execWmHdma5_cfg {s t : State} {v : Byte} (h : execWmHdma5 v s = .next t) : t.cfg = s.cfg := by
  obtain ⟨-, rfl⟩ | ⟨-, ⟨u, hu, rfl⟩ | ⟨f, u, hu, rfl⟩⟩ := execWmHdma5_cases h
  · rfl
  · simpa using copyBytes_ok_cfg hu
  · simpa using copyBytes_error_cfg hu

theorem execWcMbc1Mode_cfg {s t : State} (a : Addr) {v : Byte} (h : execWcMbc1Mode a v s = .next t) : t.cfg = s.cfg := by
  unfold execWcMbc1Mode at h
  split at h <;> exact finish_ok_cfg h rfl

theorem execWcMbc3Latch_cfg {s t : State} (a : Addr) {v : Byte} (h : execWcMbc3Latch a v s = .next t) : t.cfg = s.cfg :=
  finish_ok_cfg h (by split <;> rfl)

theorem execWmVbk_cfg {s t : State} {v : Byte} (h : execWmVbk v s = .next t) : t.cfg = s.cfg :=
  finish_ok_cfg h (by split <;> rfl)

theorem execWmSvbk_cfg {s t : State} {v : Byte} (h : execWmSvbk v s = .next t) : t.cfg = s.cfg :=
  finish_ok_cfg h (by split <;> rfl)

/-! ## Every operation, every step -/

/-- R29 for one operation, by how its meaning ends: a read answers a byte, a command or a store finishes in a state of the same
configuration, and the operations with branches or a transfer have a lemma each. -/
theorem exec_cfg {i : Instr} {s t : State} (h : exec i s = .next t) : t.cfg = s.cfg := by
  cases i with
  | rdRomx | rdEram => exact answer_cfg h
  | rdVram | rdRtc | rdWramx | rdSnd | rdLcdc | rdStat | rdBgpd | rdObpd | rdFlat => exact answer_ok_cfg h
  | wcMbc1Romb | wcMbc3Romb | wcMbc1Romhi => exact finish_cfg h fun _ => bankSwitch_cfg
  | wmEram => exact finish_cfg h fun _ => storeEram_cfg
  | wcMbc1Mode a => exact execWcMbc1Mode_cfg a h
  | wcMbc3Latch a => exact execWcMbc3Latch_cfg a h
  | wmVbk => exact execWmVbk_cfg h
  | wmSvbk => exact execWmSvbk_cfg h
  | wmDma => exact execWmDma_cfg h
  | wmHdma5 => exact execWmHdma5_cfg h
  | wcNopLow | wcNopKind | wcMbc1Ramb | wcMbc3Ramb | wcMbc3Rtcsel | wcMbc3Secign | wmVram | wmRtc | wmWramx
  | wmSndReg | wmSndWave | wmLcdc | wmStat | wmBgpi | wmBgpd | wmObpi | wmObpd | wmHdma1 | wmHdma2 | wmHdma3 | wmHdma4
  | wmFlat => exact finish_ok_cfg h rfl

/-- Settles O13: a step idles, performs one operation or lets the environment change something, and none of the three
touches `cfg`. -/
theorem configurationNeverChanges : Obligations.ConfigurationNeverChanges := by
  intro s t h
  obtain ⟨-, ⟨-, rfl⟩ | ⟨w, rest, -, hexec⟩ | ⟨e, rest, -, rfl⟩⟩ := step_cases h
  · rfl
  · exact (exec_cfg hexec).trans (State.setInputs_cfg s rest)
  · exact (applyEnv_cfg _ e).trans (State.setInputs_cfg s rest)

end Sys2Proof.Machine
end

section
/-! PROOF. How every transaction ends for the collaborator that issued it (R12, R13, R91): which operations a word of each
direction decodes to, what a read, a command, a store and a transfer leave in the response field and among the waiting inputs,
and with that what one step does with an issued transaction. -/
namespace Sys2Proof.Machine
open Laws.EncodeFields (written)

/-! ## The direction of a word is that of its operation -/

theorem decodeRead_written (m : Mode) (a : Addr) : written (decodeRead m a) = none := by
  unfold decodeRead
  split <;> rfl

theorem decodeCommand_written (m : Mode) (a : Addr) (v : Byte) : written (decodeCommand m a v) = some v := by
  unfold decodeCommand
  repeat' split
  all_goals rfl

theorem decodeFlatStore_written (m : Mode) (a : Addr) (v : Byte) : written (decodeFlatStore m a v) = some v := by
  unfold decodeFlatStore
  split <;> rfl

theorem decodeWrite_written (m : Mode) (a : Addr) (v : Byte) : written (decodeWrite m a v) = some v := by
  unfold decodeWrite
  cases regionW m a with
  | cart => exact decodeCommand_written m a v
  | flat => exact decodeFlatStore_written m a v
  | vram | rtc | eram | wramx => rfl

/-- A word with the direction bit clear decodes to an operation that writes nothing, and a word with it set to one that writes
(R90). -/
theorem decode_written_eq_none_iff (m : Mode) (w : TWord) : written (decode m w) = none ↔ w.isWrite = false := by
  cases hw : w.isWrite with
  | false => simp [decode_read hw, decodeRead_written]
  | true => simp [decode_write hw, decodeWrite_written]

/-! ## How a transaction ends -/

/-- `t` is an end of operation `i` begun in `s`: no input is taken, a byte is returned exactly by a read, and nothing is
returned with a fault on record (R12, R91, R238). -/
structure EndsIn (i : Instr) (s t : State) : Prop where
  inputs   : t.inputs = s.inputs
  returned : t.fault = none → (t.response.isSome ↔ written i = none)
  faulted  : t.fault ≠ none → t.response = none

variable {i : Instr} {s t u : State} {v : Byte}

theorem answer_endsIn {r : Except Fault Byte} (hi : written i = none) (hs : s.fault = none) (h : answer s r = .next t) :
    EndsIn i s t := by
  obtain ⟨b, -, rfl⟩ | ⟨f, -, rfl⟩ := answer_cases h
  · exact ⟨rfl, by simp [hi], by simp [hs]⟩
  · exact ⟨rfl, by simp, by simp⟩

theorem answer_ok_endsIn {b : Byte} (hi : written i = none) (hs : s.fault = none) (h : answer s (.ok b) = .next t) :
    EndsIn i s t :=
  answer_endsIn hi hs h

theorem complete_endsIn (hi : written i = some v) (hu : u.inputs = s.inputs) : EndsIn i s u.complete :=
  ⟨hu, by simp [hi], by simp⟩

theorem raise_endsIn (f : Fault) (hu : u.inputs = s.inputs) : EndsIn i s (u.raise f) := ⟨hu, by simp, by simp⟩

theorem finish_endsIn {r : Except Fault State} (hi : written i = some v) (h : finish s r = .next t)
    (hr : ∀ u, r = .ok u → u.inputs = s.inputs) : EndsIn i s t := by
  obtain ⟨u, hu, rfl⟩ | ⟨f, -, rfl⟩ := finish_cases h
  · exact complete_endsIn hi (hr u hu)
  · exact raise_endsIn f rfl

theorem finish_ok_endsIn (hi : written i = some v) (h : finish s (.ok u) = .next t) (hu : u.inputs = s.inputs) : EndsIn i s t :=
  finish_endsIn hi h fun _ e => Except.ok.inj e ▸ hu

/-! ## The shared operations take no input -/

theorem bankSwitch_inputs {c : BitVec 7} (h : bankSwitch s c = .ok t) : t.inputs = s.inputs := by
  obtain rfl | ⟨limit, -, -, -, rfl⟩ := bankSwitch_cases h <;> rfl

theorem storeEram_inputs {a : Addr} (h : storeEram s a v = .ok t) : t.inputs = s.inputs := by
  unfold storeEram at h
  split at h
  · exact Except.ok.inj h ▸ State.putEram_inputs s _ v
  · cases h

theorem copyBytes_ok_inputs {n : Nat} {src dst : Addr} (h : copyBytes n src dst s = .ok t) : t.inputs = s.inputs := by
  rw [copyBytes_frame.1 t h]

theorem copyBytes_error_inputs {n : Nat} {src dst : Addr} {f : Fault} (h : copyBytes n src dst s = .error (f, t)) :
    t.inputs = s.inputs := by
  rw [copyBytes_frame.2 f t h]

/-! ## Every operation, every issued transaction -/

theorem execWcMbc1Mode_endsIn (a : Addr) (h : execWcMbc1Mode a v s = .next t) : EndsIn (.wcMbc1Mode a v) s t := by
  unfold execWcMbc1Mode at h
  split at h <;> exact finish_ok_endsIn rfl h rfl

theorem execWmDma_endsIn (h : execWmDma v s = .next t) : EndsIn (.wmDma v) s t := by
  obtain ⟨u, hu, rfl⟩ | ⟨f, u, hu, rfl⟩ := execWmDma_cases h
  · exact complete_endsIn rfl (by simpa using copyBytes_ok_inputs hu)
  · exact raise_endsIn f (by simpa using copyBytes_error_inputs hu)

theorem execWmHdma5_endsIn (h : execWmHdma5 v s = .next t) : EndsIn (.wmHdma5 v) s t := by
  obtain ⟨-, rfl⟩ | ⟨-, ⟨u, hu, rfl⟩ | ⟨f, u, hu, rfl⟩⟩ := execWmHdma5_cases h
  · exact complete_endsIn rfl rfl
  · exact complete_endsIn rfl (by simpa using copyBytes_ok_inputs hu)
  · exact raise_endsIn f (by simpa using copyBytes_error_inputs hu)

/-- R12 and R91 for one operation, by how its meaning ends: a read answers, a command or a store finishes, and a transfer
completes or raises. -/
theorem exec_endsIn (hs : s.fault = none) (h : exec i s = .next t) : EndsIn i s t := by
  cases i with
  | rdRomx | rdEram => exact answer_endsIn rfl hs h
  | rdVram | rdRtc | rdWramx | rdSnd | rdLcdc | rdStat | rdBgpd | rdObpd | rdFlat => exact answer_ok_endsIn rfl hs h
  | wcMbc1Romb | wcMbc3Romb | wcMbc1Romhi => exact finish_endsIn rfl h fun _ => bankSwitch_inputs
  | wmEram => exact finish_endsIn rfl h fun _ => storeEram_inputs
  | wcMbc1Mode a => exact execWcMbc1Mode_endsIn a h
  | wmDma => exact execWmDma_endsIn h
  | wmHdma5 => exact execWmHdma5_endsIn h
  | wcMbc3Latch | wmVbk | wmSvbk => exact finish_ok_endsIn rfl h (by split <;> rfl)
  | wcNopLow | wcNopKind | wcMbc1Ramb | wcMbc3Ramb | wcMbc3Rtcsel | wcMbc3Secign | wmVram | wmRtc | wmWramx
  | wmSndReg | wmSndWave | wmLcdc | wmStat | wmBgpi | wmBgpd | wmObpi | wmObpd | wmHdma1 | wmHdma2 | wmHdma3 | wmHdma4
  | wmFlat => exact finish_ok_endsIn rfl h rfl

/-- Settles O6: the step takes the transaction and performs the operation it decodes to, which answers next and ends as a
transaction of the word's direction does. -/
theorem everyTransactionEnds : Obligations.EveryTransactionEnds := by
  intro s w rest ⟨hf, hi⟩
  obtain ⟨t, ht⟩ := exec_next (decode s.mode w) (s.setInputs rest)
  obtain ⟨hinputs, hreturned, hfaulted⟩ := exec_endsIn (s := s.setInputs rest) hf ht
  refine ⟨t, (step_transaction hf hi).trans ht, hinputs, fun h => ?_, hfaulted⟩
  exact (hreturned h).trans (decode_written_eq_none_iff s.mode w)

end Sys2Proof.Machine
end

section
/-! PROOF. The reads of spec 40_address_decoder.md: which words decode to each of them, what each answers (R110 to R121), and
that a read changes nothing but the response (R123). -/
namespace Sys2Proof.Machine
open Claims (selects)

/-! ## The words of a window -/

/-- `mtch` and `mask` are the pattern of the words of one direction (`write`) whose address lies in `[lo, hi)`, a window of `2 ^ k`
addresses (R102). -/
def isWindowPattern (mtch mask : TWord) (write : Bool) (k lo hi : Nat) : Bool :=
  decide (k ≤ 16) && decide (mask = BitVec.allOnes 25 <<< (8 + k)) && decide (mtch.toNat % 2 ^ (8 + k) = 0) &&
    decide (lo = mtch.addr.toNat / 2 ^ k * 2 ^ k) && decide (hi = lo + 2 ^ k) && mtch.isWrite == write

theorem isWindowPattern_fields {w mtch mask : TWord} {write : Bool} {k lo hi : Nat}
    (hp : isWindowPattern mtch mask write k lo hi = true) (h : (w &&& mask) = mtch) :
    w.isWrite = write ∧ within lo hi w.addr = true := by
  simp only [isWindowPattern, Bool.and_eq_true, decide_eq_true_eq, beq_iff_eq] at hp
  obtain ⟨⟨⟨⟨⟨hk, hmask⟩, hlow⟩, hlo⟩, hhi⟩, hdir⟩ := hp
  obtain ⟨hwrite, hquot⟩ := pattern_fields k hk hmask hlow h
  have hsplit := Nat.div_add_mod' w.addr.toNat (2 ^ k)
  have hrem := Nat.mod_lt w.addr.toNat (Nat.two_pow_pos k)
  rw [hquot, ← hlo] at hsplit
  exact ⟨hwrite.trans hdir, (within_iff _ _ _).mpr (by omega)⟩

/-- A read row's pattern selects the operation that the decoder gives every read of its window. -/
theorem selects_read {m : Mode} {mtch mask : TWord} {k lo hi : Nat} {i : Addr → Instr}
    (hp : isWindowPattern mtch mask false k lo hi = true) (h : ∀ a, within lo hi a = true → decodeRead m a = i a) :
    selects m mtch mask (fun a _ => i a) := by
  intro w hw
  obtain ⟨hdir, ha⟩ := isWindowPattern_fields hp hw
  exact (decode_read hdir).trans (h w.addr ha)

/-- A write row's pattern selects the operation that the decoder gives every write in its window. -/
theorem selects_write {m : Mode} {mtch mask : TWord} {k lo hi : Nat} {i : Addr → Byte → Instr}
    (hp : isWindowPattern mtch mask true k lo hi = true) (h : ∀ a v, within lo hi a = true → decodeWrite m a v = i a v) :
    selects m mtch mask i := by
  intro w hw
  obtain ⟨hdir, ha⟩ := isWindowPattern_fields hp hw
  exact (decode_write hdir).trans (h w.addr w.data ha)

/-! ## The operation of a read, by its address (R61, R110) -/

variable {m : Mode} {a : Addr}

theorem decodeRead_vram (ha : within 0x8000 0xa000 a = true) : decodeRead m a = .rdVram a := by
  simp [decodeRead, regionR_vram ha]

theorem decodeRead_rtc (hsel : m.rtcSel ≠ 0) (ha : within 0xa000 0xc000 a = true) : decodeRead m a = .rdRtc a := by
  rw [decodeRead, regionR_window ha, if_neg hsel]

theorem decodeRead_wramx (hbank : 1 < m.wramBank.toNat) (ha : within 0xd000 0xe000 a = true) : decodeRead m a = .rdWramx a := by
  simp [decodeRead, regionR_wramx ha (decide_eq_true hbank)]

theorem decodeRead_snd (ha : inSoundWindows a = true) : decodeRead m a = .rdSnd a := by
  simp [decodeRead, regionR_snd ha]

theorem decodeRead_lcdc (hr : m.regs.wf = true) : decodeRead m m.regs.lcdc = .rdLcdc := by
  simp [decodeRead, regionR_register hr (show m.regs.lcdc ∈ m.regs.toList by simp [AddrMap.toList])]

theorem decodeRead_stat (hr : m.regs.wf = true) : decodeRead m m.regs.stat = .rdStat := by
  have hne : m.regs.stat ≠ m.regs.lcdc := ne_of_ioRow (r := m.regs) (by simp [ioRow_stat hr, ioRow_lcdc hr])
  simp [decodeRead, regionR_register hr (show m.regs.stat ∈ m.regs.toList by simp [AddrMap.toList]), hne]

/-- What it takes for a read to be plain: no window and no register of R61 claims the address. -/
theorem rdFlat_wf_iff :
    (Instr.rdFlat a).wf m = true ↔
      within 0x4000 0xc000 a = false ∧ (m.wramBanked && within 0xd000 0xe000 a) = false ∧ inSoundWindows a = false ∧
        ∀ b ∈ [m.regs.lcdc, m.regs.stat, m.regs.bgpd, m.regs.obpd], b ≠ a := by
  simp only [Instr.wf, Bool.and_eq_true, Bool.not_eq_true', List.all_eq_true, bne_iff_ne, and_assoc]

theorem decodeRead_flat (h : (Instr.rdFlat a).wf m = true) : decodeRead m a = .rdFlat a := by
  obtain ⟨hwindow, hwram, hsound, hregs⟩ := rdFlat_wf_iff.mp h
  have hne : ∀ b ∈ [m.regs.lcdc, m.regs.stat, m.regs.bgpd, m.regs.obpd], a ≠ b := fun b hb => (hregs b hb).symm
  simp only [List.forall_mem_cons, List.not_mem_nil, false_imp_iff, implies_true, and_true] at hne
  obtain ⟨hlcdc, hstat, hbgpd, hobpd⟩ := hne
  simp [decodeRead, regionR_rest hwindow hwram hsound, hlcdc, hstat, hbgpd, hobpd]

/-- Below the register space a read is plain wherever no window of R61 claims it. -/
theorem rdFlat_wf_low (hr : m.regs.wf = true) (ha : a.toNat < 0xe000) (hwindow : within 0x4000 0xc000 a = false)
    (hwram : (m.wramBanked && within 0xd000 0xe000 a) = false) : (Instr.rdFlat a).wf m = true := by
  refine rdFlat_wf_iff.mpr ⟨hwindow, hwram, ?_, fun b hb => ?_⟩
  · simp only [inSoundWindows, Bool.or_eq_false_iff, within_false_iff]; omega
  · have hsub : [m.regs.lcdc, m.regs.stat, m.regs.bgpd, m.regs.obpd] ⊆ m.regs.toList := by simp [AddrMap.toList]
    have := AddrMap.wf_bounds hr (hsub hb)
    rintro rfl
    omega

theorem rdFlat_wf_fixed (hr : m.regs.wf = true) (ha : a.toNat < 0x4000) : (Instr.rdFlat a).wf m = true := by
  have hwram : within 0xd000 0xe000 a = false := by rw [within_false_iff]; omega
  exact rdFlat_wf_low hr (by omega) (by rw [within_false_iff]; omega) (by simp [hwram])

theorem rdFlat_wf_unbanked (hr : m.regs.wf = true) (ha : within 0xd000 0xe000 a = true) (hbank : m.wramBank.toNat ≤ 1) :
    (Instr.rdFlat a).wf m = true := by
  have hplain : m.wramBanked = false := decide_eq_false (by omega)
  rw [within_iff] at ha
  exact rdFlat_wf_low hr ha.2 (by rw [within_false_iff]; omega) (by simp [hplain])

/-- A named register is read back raw unless its dispatcher row is one of the four that R61 lists. -/
theorem rdFlat_wf_register (hr : m.regs.wf = true) (ha : a ∈ m.regs.toList)
    (hrow : ioRow m.regs a ∉ [IoRow.lcdc, .stat, .bgpd, .obpd]) : (Instr.rdFlat a).wf m = true := by
  have hb := AddrMap.wf_bounds hr ha
  have hwram : within 0xd000 0xe000 a = false := by rw [within_false_iff]; omega
  refine rdFlat_wf_iff.mpr ⟨by rw [within_false_iff]; omega, by simp [hwram], ?_, ?_⟩
  · simp only [inSoundWindows, Bool.or_eq_false_iff, within_false_iff]; omega
  · have hne : ∀ b, ioRow m.regs b ∈ [IoRow.lcdc, .stat, .bgpd, .obpd] → b ≠ a := fun b hmem e => hrow (e ▸ hmem)
    simp only [List.forall_mem_cons, List.not_mem_nil, false_imp_iff, implies_true, and_true]
    exact ⟨hne _ (by simp [ioRow_lcdc hr]), hne _ (by simp [ioRow_stat hr]), hne _ (by simp [ioRow_bgpd hr]),
      hne _ (by simp [ioRow_obpd hr])⟩

/-- The ten registers of R121 that are read back raw. -/
theorem rdFlat_wf_raw_registers (hr : m.regs.wf = true) :
    ∀ a ∈ [m.regs.dma, m.regs.vbk, m.regs.svbk, m.regs.hdma1, m.regs.hdma2, m.regs.hdma3, m.regs.hdma4, m.regs.hdma5,
      m.regs.bgpi, m.regs.obpi], (Instr.rdFlat a).wf m = true := by
  simp only [List.forall_mem_cons, List.not_mem_nil, false_imp_iff, implies_true, and_true]
  refine ⟨?_, ?_, ?_, ?_, ?_, ?_, ?_, ?_, ?_, ?_⟩ <;> apply rdFlat_wf_register hr <;>
    simp [AddrMap.toList, ioRow_dma hr, ioRow_vbk hr, ioRow_svbk hr, ioRow_hdma1 hr, ioRow_hdma2 hr, ioRow_hdma3 hr,
      ioRow_hdma4 hr, ioRow_hdma5 hr, ioRow_bgpi hr, ioRow_obpi hr]

/-! ## What a read answers -/

/-- A read transaction answers the byte that `readByte` finds, in every region (R110). -/
theorem exec_decodeRead (s : State) (a : Addr) : exec (decodeRead s.mode a) s = answer s (readByte s a) := by
  unfold decodeRead readByte
  cases regionR s.mode a <;> rfl

/-- Settles O15: a read answers a byte, or raises the one fault a byte read can have, and neither touches the state. -/
theorem readIsSideEffectFree : Obligations.ReadIsSideEffectFree := by
  intro s t w rest ⟨hf, hi⟩ hw h
  rw [step_transaction hf hi, decode_read hw] at h
  obtain ⟨b, -, rfl⟩ | ⟨f, herr, rfl⟩ := answer_cases ((exec_decodeRead (s.setInputs rest) w.addr).symm.trans h)
  · exact ⟨rfl, .inl hf⟩
  · refine ⟨rfl, .inr ?_⟩
    obtain ⟨-, -, rfl⟩ | ⟨-, -, -, rfl⟩ := readByte_error herr <;> exact ⟨_, _, rfl⟩

/-- Settles O22: the window comes second in R61 and depends on no mode; the pointer bound is R28 (g). -/
theorem readVideoRam : Obligations.ReadVideoRam := fun _ =>
  ⟨selects_read (k := 13) (by decide) fun _ => decodeRead_vram, fun hs hcolor => (hs.pointers.plainBanks hcolor).2, fun _ _ => rfl⟩

/-- Settles O24: the answer is a function of the clock's state and the selector alone, and the selector decides the operation. -/
theorem readMappedClock : Obligations.ReadMappedClock := by
  refine fun s => ⟨fun hsel => ⟨selects_read (k := 13) (by decide) fun _ => decodeRead_rtc hsel, fun _ _ => rfl⟩,
    fun a b ha => ⟨_, rfl, ?_, rfl⟩⟩
  rw [decode_readWord]
  exact decodeRead_rtc (show (9 : Byte) ≠ 0 by decide) ha

/-- Settles O25: the pointer alone decides between the banked cell and the flat one, since no register lies in the window; the
bound out of colour mode is R28 (g). -/
theorem readBankedWorkingRam : Obligations.ReadBankedWorkingRam := by
  refine fun s => ⟨fun hbank => ⟨selects_read (k := 12) (by decide) fun _ => decodeRead_wramx hbank, fun _ _ => rfl⟩,
    fun hbank hr => ⟨selects_read (k := 12) (by decide) fun _ ha => decodeRead_flat (rdFlat_wf_unbanked hr ha hbank),
      fun _ _ => rfl⟩, fun hs hcolor => ?_⟩
  rw [(hs.pointers.plainBanks hcolor).1]
  decide

/-- Settles O26: R61 tests the sound windows before the named registers, and no earlier window reaches them. -/
theorem readSoundWindow : Obligations.ReadSoundWindow := fun _ =>
  ⟨fun _ hw ha => (decode_read hw).trans (decodeRead_snd ha), fun _ _ => rfl⟩

/-- Settles O27: the register's own row of R61 is taken, and `WM.LCDC` and `WM.STAT` mirror the byte into the field it reads. -/
theorem readLcdRegisters : Obligations.ReadLcdRegisters := by
  refine fun s hr => ⟨fun w hw => ?_, fun w hw => ?_, rfl, rfl, fun v => ⟨⟨_, rfl, rfl⟩, ⟨_, rfl, rfl⟩⟩⟩
  · obtain ⟨hdir, ha⟩ := read_register_fields hw
    rw [decode_read hdir, ha]
    exact decodeRead_lcdc (m := s.mode) hr
  · obtain ⟨hdir, ha⟩ := read_register_fields hw
    rw [decode_read hdir, ha]
    exact decodeRead_stat (m := s.mode) hr

@[simp] theorem flatCell_complete (s : State) (a : Addr) : flatCell s.complete a = flatCell s a := rfl

@[simp] theorem flatCell_putFlat_same (s : State) (a : Addr) (v : Byte) : flatCell (s.putFlat a v) a = v :=
  Memory.read_write_same s.flat a.toNat v

/-- The completion sentinel of a video DMA that no fault ended is what its trigger cell then holds (R189). -/
theorem execWmHdma5_sentinel {s t : State} {c : Byte} (hcolor : s.cfg.color = true) (h : execWmHdma5 c s = .next t)
    (ht : t.fault = none) : flatCell t s.cfg.regs.hdma5 = 0xff := by
  obtain ⟨hplain, -⟩ | ⟨-, ⟨u, -, rfl⟩ | ⟨f, u, -, rfl⟩⟩ := execWmHdma5_cases h
  · simp [hcolor] at hplain
  · rw [flatCell_complete, flatCell_putFlat_same]
  · simp at ht

/-- Settles O29: a read that no line of R61 claims is plain, and the addresses listed are such. -/
theorem readFlatCell : Obligations.ReadFlatCell := by
  refine fun s => ⟨fun w hw hwf => (decode_read hw).trans (decodeRead_flat hwf), fun _ => rfl, fun hr =>
    ⟨fun _ => rdFlat_wf_fixed hr, fun _ => rdFlat_wf_unbanked (m := s.mode) hr, rdFlat_wf_raw_registers (m := s.mode) hr,
      fun c t hcolor h ht => ?_⟩⟩
  change answer t (.ok (flatCell t s.cfg.regs.hdma5)) = _
  rw [execWmHdma5_sentinel hcolor h ht]
  rfl

end Sys2Proof.Machine
end

section
/-! PROOF. The stores of spec 40_address_decoder.md: a write at or below 0x7fff stores nothing (R125), each store of R126 to R130
changes the one cell it names or makes one call, and the byte of a write classified flat is in its cell (R62, R130). -/
namespace Sys2Proof.Machine
open Claims (stored)

/-! ## Commands -/

/-- The operations of format `WC`. -/
def isCommand : Instr → Bool
  | .wcNopLow _ _ | .wcNopKind _ _ | .wcMbc1Romb _ _ | .wcMbc3Romb _ _ | .wcMbc1Romhi _ _ | .wcMbc1Ramb _ _ | .wcMbc3Ramb _ _
  | .wcMbc3Rtcsel _ _ | .wcMbc3Secign _ _ | .wcMbc1Mode _ _ | .wcMbc3Latch _ _ => true
  | _ => false

theorem decodeCommand_isCommand (m : Mode) (a : Addr) (v : Byte) : isCommand (decodeCommand m a v) = true := by
  unfold decodeCommand
  repeat' split
  all_goals rfl

/-- `t` is a completed or faulted write begun in `s` that stored nothing: the controller's registers, the clock and the fault
record are all that can differ (R125). -/
def StoresNothing (s t : State) : Prop :=
  t = { s with
    response := none, romBank := t.romBank, ramBank := t.ramBank, bankMode := t.bankMode, rtcSel := t.rtcSel, rtc := t.rtc,
    fault := t.fault }

variable {s t u : State} {v : Byte}

theorem finish_storesNothing {r : Except Fault State} (h : finish s r = .next t) (hr : ∀ u, r = .ok u → StoresNothing s u.complete) :
    StoresNothing s t := by
  obtain ⟨u, hu, rfl⟩ | ⟨f, -, rfl⟩ := finish_cases h
  · exact hr u hu
  · rfl

theorem finish_ok_storesNothing (h : finish s (.ok u) = .next t) (hu : StoresNothing s u.complete) : StoresNothing s t :=
  finish_storesNothing h fun _ e => Except.ok.inj e ▸ hu

theorem bankSwitch_storesNothing {c : BitVec 7} (h : bankSwitch s c = .ok u) : StoresNothing s u.complete := by
  obtain rfl | ⟨limit, -, -, -, rfl⟩ := bankSwitch_cases h <;> rfl

theorem execWcMbc1Mode_storesNothing (a : Addr) (h : execWcMbc1Mode a v s = .next t) : StoresNothing s t := by
  unfold execWcMbc1Mode at h
  split at h <;> exact finish_ok_storesNothing h rfl

/-- R125 for one command, by how its meaning ends. -/
theorem exec_command_storesNothing {i : Instr} (hi : isCommand i = true) (h : exec i s = .next t) : StoresNothing s t := by
  cases i with
  | wcMbc1Romb | wcMbc3Romb | wcMbc1Romhi => exact finish_storesNothing h fun _ => bankSwitch_storesNothing
  | wcMbc1Mode a => exact execWcMbc1Mode_storesNothing a h
  | wcMbc3Latch => exact finish_ok_storesNothing h (by split <;> rfl)
  | wcNopLow | wcNopKind | wcMbc1Ramb | wcMbc3Ramb | wcMbc3Rtcsel | wcMbc3Secign => exact finish_ok_storesNothing h rfl
  | _ => cases hi

/-- Settles O16: every such write is a command, and no command stores. -/
theorem commandStoresNothing : Obligations.CommandStoresNothing := by
  intro s t w rest ⟨hf, hi⟩ hw ha h
  rw [step_transaction hf hi, decode_write hw, decodeWrite, regionW_cart ha] at h
  exact exec_command_storesNothing (decodeCommand_isCommand _ _ _) h

/-! ## The operation of a write, by its address (R62, R124) -/

variable {m : Mode} {a b : Addr}

theorem decodeWrite_vram (ha : within 0x8000 0xa000 a = true) : decodeWrite m a v = .wmVram a v := by
  rw [decodeWrite, regionW_vram ha]

theorem decodeWrite_rtc (hsel : m.rtcSel ≠ 0) (ha : within 0xa000 0xc000 a = true) : decodeWrite m a v = .wmRtc a v := by
  rw [decodeWrite, regionW_window ha, if_neg hsel]

theorem decodeWrite_wramx (hbank : 1 < m.wramBank.toNat) (ha : within 0xd000 0xe000 a = true) :
    decodeWrite m a v = .wmWramx a v := by
  rw [decodeWrite, regionW_wramx ha (decide_eq_true hbank)]

theorem decodeWrite_flat (h : (Instr.wmFlat a v).wf m = true) : decodeWrite m a v = .wmFlat a v := by
  simp only [Instr.wf, Bool.and_eq_true, Bool.not_eq_true', decide_eq_true_eq, List.all_eq_true, bne_iff_ne] at h
  obtain ⟨⟨⟨hlow, hwram⟩, hsound⟩, hregs⟩ := h
  rw [decodeWrite, regionW_flat hlow hwram]
  simp only [decodeFlatStore, ioRow_plain (fun hm => hregs a hm rfl) hsound]

/-! ## The stores of the windows -/

theorem stored_write (m : Memory) (k : Nat) (v : Byte) : stored m (Memory.write m k v) k v := Memory.read_write m k v

/-- Settles O30: every such write is the store of the one cell of the bank that the pointer names. -/
theorem storeVideoRam : Obligations.StoreVideoRam := fun _ =>
  ⟨selects_write (k := 13) (by decide) fun _ _ => decodeWrite_vram, fun _ _ _ => ⟨_, rfl, rfl, stored_write _ _ _⟩⟩

/-- Settles O32: with a selector mapped every such write is one call, and external RAM is not reached. -/
theorem storeMappedClock : Obligations.StoreMappedClock := fun _ hsel =>
  ⟨selects_write (k := 13) (by decide) fun _ _ => decodeWrite_rtc hsel, fun _ _ _ => rfl⟩

/-- Settles O33: with the pointer above 1 every such write is the store of one banked cell, tried before the flat one (R62). -/
theorem storeBankedWorkingRam : Obligations.StoreBankedWorkingRam := fun _ hbank =>
  ⟨selects_write (k := 12) (by decide) fun _ _ => decodeWrite_wramx hbank, fun _ _ _ => ⟨_, rfl, rfl, stored_write _ _ _⟩⟩

/-! ## The flat cells that a transfer leaves -/

theorem storeByte_flatCell (h : storeByte s a v = .ok t) (hb : a ≠ b) : flatCell t b = flatCell s b := by
  obtain ⟨-, rfl⟩ | ⟨-, rfl⟩ | ⟨-, -, rfl⟩ | ⟨-, -, -, rfl⟩ | ⟨-, -, rfl⟩ | ⟨-, rfl⟩ := storeByte_cases h
  · rfl
  · rfl
  · rfl
  · rfl
  · rfl
  · exact Memory.read_write_other s.flat v fun e => hb (BitVec.eq_of_toNat_eq e.symm)

/-- A run of byte copies leaves every flat cell that is none of its destinations, whether it completes or ends in a fault. -/
theorem copyBytes_flatCell {n : Nat} {src dst : Addr} (hb : ∀ i < n, dst + BitVec.ofNat 16 i ≠ b) :
    (∀ t, copyBytes n src dst s = .ok t → flatCell t b = flatCell s b) ∧
    (∀ f t, copyBytes n src dst s = .error (f, t) → flatCell t b = flatCell s b) := by
  induction n generalizing src dst s with
  | zero => exact ⟨fun t h => by cases h; rfl, fun f t h => by cases h⟩
  | succ n ih =>
    unfold copyBytes
    split
    · exact ⟨fun t h => (by cases h), fun f t h => by cases h; rfl⟩
    · split
      · exact ⟨fun t h => (by cases h), fun f t h => by cases h; rfl⟩
      · rename_i u hu
        have hfirst : flatCell u b = flatCell s b := storeByte_flatCell hu (by simpa using hb 0 (by omega))
        have hnext : ∀ i < n, dst + 1 + BitVec.ofNat 16 i ≠ b := fun i hi => by
          have := hb (i + 1) (by omega)
          rwa [Nat.add_comm, BitVec.ofNat_add, ← BitVec.add_assoc] at this
        rw [← hfirst]
        exact ih hnext

/-- The trigger cell of an object-memory DMA lies outside the table, so it keeps the byte just stored. -/
theorem execWmDma_flatCell (hr : s.cfg.regs.wf = true) (h : execWmDma v s = .next t) : flatCell t s.cfg.regs.dma = v := by
  have hclear : ∀ i < oamLength, s.cfg.regs.oam + BitVec.ofNat 16 i ≠ s.cfg.regs.dma := by
    intro i hi e
    have hplace := AddrMap.wf_bounds hr (show s.cfg.regs.dma ∈ s.cfg.regs.toList by simp [AddrMap.toList])
    rw [← e, AddrMap.wf_oam_add hr hi] at hplace
    rw [oamLength] at hi
    omega
  obtain ⟨u, hu, rfl⟩ | ⟨f, u, hu, rfl⟩ := execWmDma_cases h
  · exact ((copyBytes_flatCell hclear).1 u hu).trans (flatCell_putFlat_same s _ v)
  · exact ((copyBytes_flatCell hclear).2 f u hu).trans (flatCell_putFlat_same s _ v)

/-- No destination of a video DMA reaches the register space: it ends at 0xa7fe at the latest. -/
theorem videoDest_clear (h3 h4 c : Byte) (hb : 0xe000 ≤ b.toNat) : ∀ i < videoLength c, videoDest h3 h4 + BitVec.ofNat 16 i ≠ b := by
  rintro i hi rfl
  rw [videoLength_eq] at hi
  rw [BitVec.toNat_add, BitVec.toNat_ofNat, videoDest_toNat] at hb
  omega

/-- Without the sentinel of a completed transfer the trigger cell of a video DMA keeps the byte just stored. -/
theorem execWmHdma5_flatCell (hr : s.cfg.regs.wf = true) (hf : s.fault = none) (h : execWmHdma5 v s = .next t)
    (hno : ¬(s.cfg.color = true ∧ t.fault = none)) : flatCell t s.cfg.regs.hdma5 = v := by
  have hplace := AddrMap.wf_bounds hr (show s.cfg.regs.hdma5 ∈ s.cfg.regs.toList by simp [AddrMap.toList])
  obtain ⟨-, rfl⟩ | ⟨hcolor, ⟨u, hu, rfl⟩ | ⟨f, u, hu, rfl⟩⟩ := execWmHdma5_cases h
  · exact flatCell_putFlat_same s _ v
  · have hfault : u.fault = none := by rw [copyBytes_frame.1 u hu]; exact hf
    exact absurd ⟨hcolor, hfault⟩ hno
  · exact ((copyBytes_flatCell (videoDest_clear _ _ v hplace.1)).2 f u hu).trans (flatCell_putFlat_same s _ v)

/-! ## The byte of a write classified flat -/

/-- The address that a dispatcher row stores to; `a` for the rows of more than one address. -/
def rowAddr (r : AddrMap) (a : Addr) : IoRow → Addr
  | .lcdc => r.lcdc
  | .stat => r.stat
  | .bgpi => r.bgpi
  | .bgpd => r.bgpd
  | .obpi => r.obpi
  | .obpd => r.obpd
  | .vbk => r.vbk
  | .svbk => r.svbk
  | .dma => r.dma
  | .hdma1 => r.hdma1
  | .hdma2 => r.hdma2
  | .hdma3 => r.hdma3
  | .hdma4 => r.hdma4
  | .hdma5 => r.hdma5
  | .sndReg | .sndWave | .plain => a

theorem rowAddr_ite {r : AddrMap} {a : Addr} {hit miss : IoRow} {c : Prop} [Decidable c] (hhit : c → rowAddr r a hit = a)
    (hmiss : rowAddr r a miss = a) : rowAddr r a (if c then hit else miss) = a := by
  split
  · exact hhit ‹c›
  · exact hmiss

theorem rowAddr_ioRow (r : AddrMap) (a : Addr) : rowAddr r a (ioRow r a) = a := by
  have hregister : ∀ b : Addr, (a == b) = true → b = a := fun b h => (eq_of_beq h).symm
  unfold ioRow
  iterate 6 refine rowAddr_ite (hregister _) ?_
  iterate 2 refine rowAddr_ite (fun _ => rfl) ?_
  iterate 8 refine rowAddr_ite (hregister _) ?_
  rfl

theorem rowAddr_of_ioRow {r : AddrMap} {a : Addr} {row : IoRow} (h : ioRow r a = row) : rowAddr r a row = a :=
  h ▸ rowAddr_ioRow r a

theorem finish_ok_flat (s : State) {f : Memory} (h : finish s (.ok u) = .next t) (hu : u.flat = f) : t.flat = f := by
  rw [finish_ok] at h
  cases h
  exact hu

/-- R131 for every row of the dispatcher that runs no transfer: the store is all it does to the flat array. -/
theorem exec_decodeFlatStore_flat (hdma : ioRow s.mode.regs a ≠ .dma) (hhdma5 : ioRow s.mode.regs a ≠ .hdma5)
    (h : exec (decodeFlatStore s.mode a v) s = .next t) : t.flat = (s.putFlat a v).flat := by
  unfold decodeFlatStore at h
  cases hrow : ioRow s.mode.regs a <;> rw [hrow] at h <;> rw [← rowAddr_of_ioRow hrow]
  case dma => exact absurd hrow hdma
  case hdma5 => exact absurd hrow hhdma5
  case vbk | svbk => exact finish_ok_flat s h (by split <;> rfl)
  all_goals exact finish_ok_flat s h rfl

theorem decodeFlatStore_dma (hr : m.regs.wf = true) : decodeFlatStore m m.regs.dma v = .wmDma v := by
  simp only [decodeFlatStore, ioRow_dma hr]

theorem decodeFlatStore_hdma5 (hr : m.regs.wf = true) : decodeFlatStore m m.regs.hdma5 v = .wmHdma5 v := by
  simp only [decodeFlatStore, ioRow_hdma5 hr]

/-- After a flat store and its dispatcher row the cell holds the byte, or the sentinel of a completed video DMA. -/
theorem exec_decodeFlatStore_flatCell (hr : s.cfg.regs.wf = true) (hf : s.fault = none)
    (h : exec (decodeFlatStore s.mode a v) s = .next t) :
    flatCell t a = if a = s.cfg.regs.hdma5 ∧ s.cfg.color = true ∧ t.fault = none then 0xff else v := by
  by_cases hhdma5 : a = s.cfg.regs.hdma5
  · subst hhdma5
    have hop : decodeFlatStore s.mode s.cfg.regs.hdma5 v = .wmHdma5 v := decodeFlatStore_hdma5 (m := s.mode) hr
    rw [hop] at h
    by_cases hdone : s.cfg.color = true ∧ t.fault = none
    · rw [execWmHdma5_sentinel hdone.1 h hdone.2, if_pos ⟨rfl, hdone⟩]
    · rw [execWmHdma5_flatCell hr hf h hdone, if_neg fun hc => hdone hc.2]
  · rw [if_neg fun hc => hhdma5 hc.1]
    by_cases hdma : a = s.cfg.regs.dma
    · subst hdma
      have hop : decodeFlatStore s.mode s.cfg.regs.dma v = .wmDma v := decodeFlatStore_dma (m := s.mode) hr
      rw [hop] at h
      exact execWmDma_flatCell hr h
    · have hflat := exec_decodeFlatStore_flat (fun e => hdma (rowAddr_of_ioRow e).symm)
        (fun e => hhdma5 (rowAddr_of_ioRow e).symm) h
      rw [flatCell, hflat]
      exact flatCell_putFlat_same s a v

/-- Settles O34: an address that no row claims is plain and its operation is the store alone; every other write classified flat
stores first, and no transfer comes back to the cell that triggered it but for the sentinel. -/
theorem storeFlatCell : Obligations.StoreFlatCell := by
  refine fun s hr => ⟨fun w hw hwf => (decode_write hw).trans (decodeWrite_flat hwf),
    fun a v => ⟨_, rfl, rfl, stored_write _ _ _⟩, fun w t hf hw hregion h => ?_⟩
  rw [decode_write hw, decodeWrite, hregion] at h
  exact exec_decodeFlatStore_flatCell hr hf h

end Sys2Proof.Machine
end

section
/-! PROOF. The secondary commands of spec 41_cartridge_controller.md that reach external RAM and the clock: which words decode to
`WC.MBC1.RAMB`, `WC.MBC3.RAMB` and `WC.MBC3.RTCSEL` (R146 to R148), and that no operation but the last two moves `rtcSel`. -/
namespace Sys2Proof.Machine
open Claims (selects)

variable {s t u : State} {m : Mode} {a b : Addr} {v : Byte}

/-! ## The operation of a secondary command (R140) -/

theorem decodeWrite_command (ha : a.toNat ≤ 0x7fff) : decodeWrite m a v = decodeCommand m a v := by
  rw [decodeWrite, regionW_cart ha]

theorem decodeWrite_mbc1Ramb (hkind : m.kind = .mbc1) (hmode : m.bankMode = true) (ha : within 0x4000 0x6000 a = true) :
    decodeWrite m a v = .wcMbc1Ramb a v := by
  obtain ⟨hlo, hhi⟩ := (within_iff _ _ _).mp ha
  rw [decodeWrite_command (by omega), decodeCommand, if_neg (by omega), hkind]
  simp only [if_neg (Nat.not_lt.mpr hlo), if_pos hhi, hmode, if_true]

/-- For MBC3 the byte alone decides a secondary command. -/
theorem decodeWrite_mbc3_secondary (hkind : m.kind = .mbc3) (ha : within 0x4000 0x6000 a = true) :
    decodeWrite m a v =
      if v.toNat ≤ 0x07 then .wcMbc3Ramb a v else if v.toNat ≤ 0x0c then .wcMbc3Rtcsel a v else .wcMbc3Secign a v := by
  obtain ⟨hlo, hhi⟩ := (within_iff _ _ _).mp ha
  rw [decodeWrite_command (by omega), decodeCommand, if_neg (by omega), hkind]
  simp only [if_neg (Nat.not_lt.mpr hlo), if_pos hhi]

theorem decodeWrite_mbc3Ramb (hkind : m.kind = .mbc3) (ha : within 0x4000 0x6000 a = true) (hv : v.toNat ≤ 0x07) :
    decodeWrite m a v = .wcMbc3Ramb a v := by
  rw [decodeWrite_mbc3_secondary hkind ha, if_pos hv]

theorem decodeWrite_mbc3Rtcsel (hkind : m.kind = .mbc3) (ha : within 0x4000 0x6000 a = true) (hlo : 0x08 ≤ v.toNat)
    (hhi : v.toNat ≤ 0x0c) : decodeWrite m a v = .wcMbc3Rtcsel a v := by
  rw [decodeWrite_mbc3_secondary hkind ha, if_neg (by omega), if_pos hhi]

/-! ## The patterns that also look at the byte -/

/-- `mtch` and `mask` are the pattern of the writes in `[0x4000, 0x6000)` whose byte lies in `[lo, hi)`, a range of `2 ^ k` bytes
(R102). -/
def isSecondaryPattern (mtch mask : TWord) (k lo hi : Nat) : Bool :=
  decide (mask &&& 0x1e00000 = 0x1e00000) && decide (mtch &&& 0x1e00000 = 0x1400000) &&
    decide (mask.data = BitVec.allOnes 8 <<< k) && decide (mtch.data.toNat % 2 ^ k = 0) &&
    decide (lo = mtch.data.toNat / 2 ^ k * 2 ^ k) && decide (hi = lo + 2 ^ k)

theorem isSecondaryPattern_fields {w mtch mask : TWord} {k lo hi : Nat} (hp : isSecondaryPattern mtch mask k lo hi = true)
    (h : (w &&& mask) = mtch) :
    w.isWrite = true ∧ within 0x4000 0x6000 w.addr = true ∧ lo ≤ w.data.toNat ∧ w.data.toNat < hi := by
  simp only [isSecondaryPattern, Bool.and_eq_true, decide_eq_true_eq] at hp
  obtain ⟨⟨⟨⟨⟨hmask, hmtch⟩, hdata⟩, hlow⟩, hlo⟩, hhi⟩ := hp
  have hwindow : (w &&& 0x1e00000) = 0x1400000 := by rw [← hmask, ← BitVec.and_assoc, h, hmtch]
  obtain ⟨hdir, ha⟩ := isWindowPattern_fields (write := true) (k := 13) (lo := 0x4000) (hi := 0x6000) (by decide) hwindow
  have hbyte : (w.data &&& mask.data) = mtch.data := by rw [← and_data, h]
  have hsplit := Nat.div_add_mod' w.data.toNat (2 ^ k)
  have hrem := Nat.mod_lt w.data.toNat (Nat.two_pow_pos k)
  rw [(and_mask_eq_iff _ _ _ hdata hlow).mp hbyte, ← hlo] at hsplit
  exact ⟨hdir, ha, by omega, by omega⟩

/-- Such a pattern selects the operation that the decoder gives every write of the window with a byte of the range. -/
theorem selects_secondary {mtch mask : TWord} {k lo hi : Nat} {i : Addr → Byte → Instr}
    (hp : isSecondaryPattern mtch mask k lo hi = true)
    (h : ∀ a v, within 0x4000 0x6000 a = true → lo ≤ v.toNat → v.toNat < hi → decodeWrite m a v = i a v) :
    selects m mtch mask i := by
  intro w hw
  obtain ⟨hdir, ha, hlo, hhi⟩ := isSecondaryPattern_fields hp hw
  exact (decode_write hdir).trans (h w.addr w.data ha hlo hhi)

theorem selects_mbc3Ramb (hkind : m.kind = .mbc3) : selects m 0x1400000 0x1e000f8 (fun a v => .wcMbc3Ramb a v) :=
  selects_secondary (k := 3) (lo := 0x00) (hi := 0x08) (by decide) fun _ _ ha _ hhi =>
    decodeWrite_mbc3Ramb hkind ha (by omega)

/-- `WC.MBC3.RTCSEL` has one row for the bytes 8 to 11 and one for 12. -/
theorem selects_mbc3Rtcsel (hkind : m.kind = .mbc3) :
    selects m 0x1400008 0x1e000fc (fun a v => .wcMbc3Rtcsel a v) ∧
    selects m 0x140000c 0x1e000ff (fun a v => .wcMbc3Rtcsel a v) :=
  ⟨selects_secondary (k := 2) (lo := 0x08) (hi := 0x0c) (by decide) fun _ _ ha hlo hhi =>
      decodeWrite_mbc3Rtcsel hkind ha hlo (by omega),
    selects_secondary (k := 0) (lo := 0x0c) (hi := 0x0d) (by decide) fun _ _ ha hlo hhi =>
      decodeWrite_mbc3Rtcsel hkind ha (by omega) (by omega)⟩

/-! ## No word decodes to a selection of register 0 -/

theorem decodeCommand_mbc3Rtcsel_ge {v' : Byte} (h : decodeCommand m a v = .wcMbc3Rtcsel b v') : 0x08 ≤ v'.toNat := by
  unfold decodeCommand at h
  repeat' split at h
  all_goals cases h
  omega

theorem decodeFlatStore_isCommand (m : Mode) (a : Addr) (v : Byte) : isCommand (decodeFlatStore m a v) = false := by
  unfold decodeFlatStore
  split <;> rfl

theorem decodeRead_isCommand (m : Mode) (a : Addr) : isCommand (decodeRead m a) = false := by
  unfold decodeRead
  split <;> rfl

/-- A word that decodes to a command is a write, and decodes as `decodeCommand` says. -/
theorem decode_eq_decodeCommand {w : TWord} (h : isCommand (decode m w) = true) : decode m w = decodeCommand m w.addr w.data := by
  cases hw : w.isWrite with
  | false => rw [decode_read hw, decodeRead_isCommand] at h; cases h
  | true =>
    rw [decode_write hw, decodeWrite] at h ⊢
    cases hregion : regionW m w.addr with
    | cart => rfl
    | flat => rw [hregion] at h; exact absurd h (by simp [decodeFlatStore_isCommand])
    | vram | rtc | eram | wramx => rw [hregion] at h; cases h

theorem decode_mbc3Rtcsel_ne_zero {w : TWord} (h : decode m w = .wcMbc3Rtcsel b v) : v ≠ 0 := by
  have hcommand : decode m w = decodeCommand m w.addr w.data := decode_eq_decodeCommand (by rw [h]; rfl)
  have hge := decodeCommand_mbc3Rtcsel_ge (hcommand.symm.trans h)
  rintro rfl
  simp at hge

/-! ## What moves the clock selector -/

theorem answer_rtcSel {r : Except Fault Byte} (h : answer s r = .next t) : t.rtcSel = s.rtcSel := by
  obtain ⟨b, -, rfl⟩ | ⟨f, -, rfl⟩ := answer_cases h
  · exact State.respond_rtcSel s b
  · exact State.raise_rtcSel s f

theorem answer_ok_rtcSel {b : Byte} (h : answer s (.ok b) = .next t) : t.rtcSel = s.rtcSel := answer_rtcSel h

theorem finish_rtcSel {r : Except Fault State} (h : finish s r = .next t) (hr : ∀ u, r = .ok u → u.rtcSel = s.rtcSel) :
    t.rtcSel = s.rtcSel := by
  obtain ⟨u, hu, rfl⟩ | ⟨f, -, rfl⟩ := finish_cases h
  · exact hr u hu
  · exact State.raise_rtcSel s f

theorem finish_ok_rtcSel (h : finish s (.ok u) = .next t) (hu : u.rtcSel = s.rtcSel) : t.rtcSel = s.rtcSel :=
  finish_rtcSel h fun _ e => Except.ok.inj e ▸ hu

theorem bankSwitch_rtcSel {c : BitVec 7} (h : bankSwitch s c = .ok t) : t.rtcSel = s.rtcSel := by
  obtain rfl | ⟨limit, -, -, -, rfl⟩ := bankSwitch_cases h <;> rfl

theorem storeEram_rtcSel (h : storeEram s a v = .ok t) : t.rtcSel = s.rtcSel := by
  unfold storeEram at h
  split at h
  · exact Except.ok.inj h ▸ State.putEram_rtcSel s _ v
  · cases h

theorem execWcMbc1Mode_rtcSel (a : Addr) (h : execWcMbc1Mode a v s = .next t) : t.rtcSel = s.rtcSel := by
  unfold execWcMbc1Mode at h
  split at h <;> exact finish_ok_rtcSel h rfl

theorem execWcMbc3Rtcsel_rtcSel (a : Addr) (h : execWcMbc3Rtcsel a v s = .next t) : t.rtcSel = v := by
  rw [execWcMbc3Rtcsel, finish_ok] at h
  cases h
  rfl

theorem execWmDma_rtcSel (h : execWmDma v s = .next t) : t.rtcSel = s.rtcSel := by
  obtain ⟨u, hu, rfl⟩ | ⟨f, u, hu, rfl⟩ := execWmDma_cases h
  · simpa using congrArg State.rtcSel (copyBytes_frame.1 u hu)
  · simpa using congrArg State.rtcSel (copyBytes_frame.2 f u hu)

theorem execWmHdma5_rtcSel (h : execWmHdma5 v s = .next t) : t.rtcSel = s.rtcSel := by
  obtain ⟨-, rfl⟩ | ⟨-, ⟨u, hu, rfl⟩ | ⟨f, u, hu, rfl⟩⟩ := execWmHdma5_cases h
  · rfl
  · simpa using congrArg State.rtcSel (copyBytes_frame.1 u hu)
  · simpa using congrArg State.rtcSel (copyBytes_frame.2 f u hu)

/-- Only the two secondary commands of MBC3 move the clock selector. -/
theorem exec_rtcSel {i : Instr} (h : exec i s = .next t) (hramb : ∀ a v, i ≠ .wcMbc3Ramb a v)
    (hrtcsel : ∀ a v, i ≠ .wcMbc3Rtcsel a v) : t.rtcSel = s.rtcSel := by
  cases i with
  | wcMbc3Ramb a v => exact absurd rfl (hramb a v)
  | wcMbc3Rtcsel a v => exact absurd rfl (hrtcsel a v)
  | rdRomx | rdEram => exact answer_rtcSel h
  | rdVram | rdRtc | rdWramx | rdSnd | rdLcdc | rdStat | rdBgpd | rdObpd | rdFlat => exact answer_ok_rtcSel h
  | wcMbc1Romb | wcMbc3Romb | wcMbc1Romhi => exact finish_rtcSel h fun _ => bankSwitch_rtcSel
  | wmEram => exact finish_rtcSel h fun _ => storeEram_rtcSel
  | wcMbc1Mode a => exact execWcMbc1Mode_rtcSel a h
  | wmDma => exact execWmDma_rtcSel h
  | wmHdma5 => exact execWmHdma5_rtcSel h
  | wcMbc3Latch | wmVbk | wmSvbk => exact finish_ok_rtcSel h (by split <;> rfl)
  | wcNopLow | wcNopKind | wcMbc1Ramb | wcMbc3Secign | wmVram | wmRtc | wmWramx | wmSndReg | wmSndWave | wmLcdc | wmStat
  | wmBgpi | wmBgpd | wmObpi | wmObpd | wmHdma1 | wmHdma2 | wmHdma3 | wmHdma4 | wmFlat => exact finish_ok_rtcSel h rfl

/-! ## The obligations -/

/-- Settles O41: the byte alone decides the command, and a selector that a decoded `WC.MBC3.RTCSEL` maps is at least 8, so only
`WC.MBC3.RAMB` unmaps the clock. -/
theorem mbc3SecondaryCommands : Obligations.Mbc3SecondaryCommands := by
  refine fun s => ⟨fun hkind => ⟨selects_mbc3Ramb hkind, selects_mbc3Rtcsel hkind⟩,
    fun _ _ => ⟨rfl, rfl⟩, fun w t h hmapped hunmapped => ?_⟩
  by_contra hramb
  have hrtcsel : ∀ a v, decode s.mode w ≠ .wcMbc3Rtcsel a v := fun a v hop => by
    rw [hop] at h
    exact decode_mbc3Rtcsel_ne_zero hop ((execWcMbc3Rtcsel_rtcSel a h).symm.trans hunmapped)
  exact hmapped ((exec_rtcSel h (fun a v hop => hramb ⟨a, v, hop⟩) hrtcsel).symm.trans hunmapped)

/-- Settles O40: in mode 1 every write of the window is the command, and the byte goes into `ramBank` as it is. -/
theorem mbc1RamBankSelect : Obligations.Mbc1RamBankSelect := fun _ =>
  ⟨fun hkind hmode => selects_write (k := 13) (by decide) fun _ _ => decodeWrite_mbc1Ramb hkind hmode, fun _ _ => rfl⟩

end Sys2Proof.Machine
end

section
/-! PROOF. While a clock register is mapped, external RAM is out of reach (spec 42_rtc_shim.md, R171). Every operation that a word can
then stand for commutes with any change of external RAM, and of its pointer too unless it moves the pointer. That a step leaves
both as they are follows from this, for the change that puts in what the state already holds. -/
namespace Sys2Proof.Machine
open Claims (mapNext)

/-- The state with external RAM changed by `g` and its pointer by `p`. -/
def State.mapExternal (g : Memory → Memory) (p : Byte → Byte) (s : State) : State :=
  { s with eram := g s.eram, ramBank := p s.ramBank }

/-- The outcome of a transfer with its states changed, the one a fault leaves among them. -/
def mapTransfer (f : State → State) : Except (Fault × State) State → Except (Fault × State) State
  | .ok t => .ok (f t)
  | .error e => .error (e.1, f e.2)

/-- The two operations that access external RAM directly. -/
def reachesEram : Instr → Bool
  | .rdEram _ | .wmEram _ _ => true
  | _ => false

/-- The two operations that move `ramBank` (R146, R147). -/
def selectsRamBank : Instr → Bool
  | .wcMbc1Ramb _ _ | .wcMbc3Ramb _ _ => true
  | _ => false

variable {m : Mode} {a : Addr} {v : Byte}

/-! ## What is decoded while a clock register is mapped, and once it is not -/

theorem regionR_ne_eram (hsel : m.rtcSel ≠ 0) : regionR m a ≠ .eram := by
  by_cases ha : within 0xa000 0xc000 a = true
  · rw [regionR_window ha, if_neg hsel]
    decide
  · unfold regionR
    rw [if_neg ha]
    repeat' split
    all_goals decide

theorem regionW_ne_eram (hsel : m.rtcSel ≠ 0) : regionW m a ≠ .eram := by
  by_cases ha : within 0xa000 0xc000 a = true
  · rw [regionW_window ha, if_neg hsel]
    decide
  · unfold regionW
    rw [if_neg ha]
    repeat' split
    all_goals decide

theorem decodeRead_eram (hsel : m.rtcSel = 0) (ha : within 0xa000 0xc000 a = true) : decodeRead m a = .rdEram a := by
  rw [decodeRead, regionR_window ha, if_pos hsel]

theorem reachesEram_of_isCommand {i : Instr} (h : isCommand i = true) : reachesEram i = false := by
  cases i with
  | rdEram | wmEram => cases h
  | _ => rfl

theorem isCommand_of_selectsRamBank {i : Instr} (h : selectsRamBank i = true) : isCommand i = true := by
  cases i with
  | wcMbc1Ramb | wcMbc3Ramb => rfl
  | _ => cases h

theorem decodeFlatStore_reachesEram (m : Mode) (a : Addr) (v : Byte) : reachesEram (decodeFlatStore m a v) = false := by
  unfold decodeFlatStore
  split <;> rfl

/-- With a clock register mapped no word stands for an access to external RAM (R61, R62). -/
theorem decode_reachesEram (hsel : m.rtcSel ≠ 0) (w : TWord) : reachesEram (decode m w) = false := by
  cases hw : w.isWrite with
  | false =>
    rw [decode_read hw, decodeRead]
    cases hregion : regionR m w.addr with
    | eram => exact absurd hregion (regionR_ne_eram hsel)
    | _ => rfl
  | true =>
    rw [decode_write hw, decodeWrite]
    cases hregion : regionW m w.addr with
    | eram => exact absurd hregion (regionW_ne_eram hsel)
    | cart => exact reachesEram_of_isCommand (decodeCommand_isCommand m _ _)
    | flat => exact decodeFlatStore_reachesEram m _ _
    | vram | rtc | wramx => rfl

theorem decodeCommand_mbc1Ramb_kind {b : Addr} {v' : Byte} (h : decodeCommand m a v = .wcMbc1Ramb b v') : m.kind = .mbc1 := by
  unfold decodeCommand at h
  repeat' split at h
  all_goals cases h
  assumption

/-- For MBC3 the one operation that moves `ramBank` is `WC.MBC3.RAMB`. -/
theorem decode_selectsRamBank_mbc3 {w : TWord} (hkind : m.kind = .mbc3) (h : selectsRamBank (decode m w) = true) :
    ∃ a v, decode m w = .wcMbc3Ramb a v := by
  have hcommand := decode_eq_decodeCommand (isCommand_of_selectsRamBank h)
  cases hop : decode m w with
  | wcMbc3Ramb a v => exact ⟨a, v, rfl⟩
  | wcMbc1Ramb =>
    have hmbc1 := decodeCommand_mbc1Ramb_kind (hcommand.symm.trans hop)
    cases hkind.symm.trans hmbc1
  | _ => rw [hop] at h; cases h

/-! ## The shared operations commute with a change of external RAM -/

variable {s t : State} {g : Memory → Memory} {p : Byte → Byte}

@[simp] theorem State.mapExternal_cfg : (s.mapExternal g p).cfg = s.cfg := rfl
@[simp] theorem State.mapExternal_mode : (s.mapExternal g p).mode = s.mode := rfl
@[simp] theorem flatCell_mapExternal : flatCell (s.mapExternal g p) a = flatCell s a := rfl

theorem answer_mapExternal (r : Except Fault Byte) :
    answer (s.mapExternal g p) r = mapNext (State.mapExternal g p) (answer s r) := by
  cases r <;> rfl

theorem finish_mapExternal {r r' : Except Fault State} (h : r' = r.map (State.mapExternal g p)) :
    finish (s.mapExternal g p) r' = mapNext (State.mapExternal g p) (finish s r) := by
  rw [h]
  cases r <;> rfl

theorem finish_ok_mapExternal {u u' : State} (h : u' = u.mapExternal g p) :
    finish (s.mapExternal g p) (.ok u') = mapNext (State.mapExternal g p) (finish s (.ok u)) :=
  finish_mapExternal (congrArg Except.ok h)

theorem finishTransfer_mapExternal (r : Except (Fault × State) State) :
    finishTransfer (mapTransfer (State.mapExternal g p) r) = mapNext (State.mapExternal g p) (finishTransfer r) := by
  cases r <;> rfl

theorem applyEnv_mapExternal (e : EnvEvent) : (s.mapExternal g p).applyEnv e = (s.applyEnv e).mapExternal g p := by
  cases e <;> rfl

theorem bankSwitch_mapExternal (c : BitVec 7) :
    bankSwitch (s.mapExternal g p) c = (bankSwitch s c).map (State.mapExternal g p) := by
  unfold bankSwitch
  rw [State.mapExternal_cfg]
  repeat' split
  all_goals rfl

theorem readByte_mapExternal (hsel : s.rtcSel ≠ 0) : readByte (s.mapExternal g p) a = readByte s a := by
  unfold readByte
  rw [State.mapExternal_mode]
  cases hregion : regionR s.mode a with
  | eram => exact absurd hregion (regionR_ne_eram hsel)
  | _ => rfl

theorem storeByte_mapExternal (hsel : s.rtcSel ≠ 0) :
    storeByte (s.mapExternal g p) a v = (storeByte s a v).map (State.mapExternal g p) := by
  unfold storeByte
  rw [State.mapExternal_mode]
  cases hregion : regionW s.mode a with
  | eram => exact absurd hregion (regionW_ne_eram hsel)
  | _ => rfl

theorem copyBytes_mapExternal {n : Nat} {src dst : Addr} (hsel : s.rtcSel ≠ 0) :
    copyBytes n src dst (s.mapExternal g p) = mapTransfer (State.mapExternal g p) (copyBytes n src dst s) := by
  induction n generalizing src dst s with
  | zero => rfl
  | succ n ih =>
    unfold copyBytes
    rw [readByte_mapExternal hsel]
    cases readByte s src with
    | error f => rfl
    | ok b =>
      dsimp only
      rw [storeByte_mapExternal hsel]
      cases hstore : storeByte s dst b with
      | error f => rfl
      | ok u =>
        have hu : u.rtcSel = s.rtcSel := by rw [storeByte_frame hstore]
        exact ih (hu ▸ hsel)

theorem oamDma_mapExternal (hsel : s.rtcSel ≠ 0) :
    oamDma v (s.mapExternal g p) = mapTransfer (State.mapExternal g p) (oamDma v s) := by
  unfold oamDma
  rw [copyBytes_mapExternal hsel, State.mapExternal_cfg]
  cases copyBytes oamLength (oamSource v) s.cfg.regs.oam s <;> rfl

theorem videoDma_mapExternal (hsel : s.rtcSel ≠ 0) :
    videoDma v (s.mapExternal g p) = mapTransfer (State.mapExternal g p) (videoDma v s) := by
  simp only [videoDma, State.mapExternal_cfg, flatCell_mapExternal, copyBytes_mapExternal hsel]
  generalize copyBytes (videoLength v) _ _ s = r
  cases r <;> rfl

theorem execWmDma_mapExternal (hsel : s.rtcSel ≠ 0) :
    execWmDma v (s.mapExternal g p) = mapNext (State.mapExternal g p) (execWmDma v s) := by
  unfold execWmDma
  rw [← finishTransfer_mapExternal, ← oamDma_mapExternal (s := s.putFlat s.cfg.regs.dma v) hsel]
  rfl

theorem execWmHdma5_mapExternal (hsel : s.rtcSel ≠ 0) :
    execWmHdma5 v (s.mapExternal g p) = mapNext (State.mapExternal g p) (execWmHdma5 v s) := by
  unfold execWmHdma5
  rw [State.mapExternal_cfg]
  dsimp only
  split
  · rw [← finishTransfer_mapExternal, ← videoDma_mapExternal (s := s.putFlat s.cfg.regs.hdma5 v) hsel]
    rfl
  · rfl

theorem execWcMbc1Mode_mapExternal (a : Addr) :
    execWcMbc1Mode a v (s.mapExternal g p) = mapNext (State.mapExternal g p) (execWcMbc1Mode a v s) := by
  unfold execWcMbc1Mode
  split <;> rfl

/-! ## Every operation, every step -/

/-- R171 for one operation. One that moves `ramBank` overwrites it, so it commutes with a change of the contents only. -/
theorem exec_mapExternal {i : Instr} (hsel : s.rtcSel ≠ 0) (hreach : reachesEram i = false)
    (hp : selectsRamBank i = true → p = id) :
    exec i (s.mapExternal g p) = mapNext (State.mapExternal g p) (exec i s) := by
  cases i with
  | rdEram | wmEram => cases hreach
  | wcMbc1Ramb | wcMbc3Ramb => obtain rfl := hp rfl; rfl
  | rdRomx => exact answer_mapExternal _
  | wcMbc1Romb | wcMbc3Romb | wcMbc1Romhi => exact finish_mapExternal (bankSwitch_mapExternal _)
  | wcMbc1Mode a => exact execWcMbc1Mode_mapExternal a
  | wmDma => exact execWmDma_mapExternal hsel
  | wmHdma5 => exact execWmHdma5_mapExternal hsel
  | wcMbc3Latch | wmVbk | wmSvbk =>
    refine finish_ok_mapExternal (s := s) ?_
    rw [apply_ite (State.mapExternal g p)]
    rfl
  | rdVram | rdRtc | rdWramx | rdSnd | rdLcdc | rdStat | rdBgpd | rdObpd | rdFlat | wcNopLow | wcNopKind | wcMbc3Rtcsel
  | wcMbc3Secign | wmVram | wmRtc | wmWramx | wmSndReg | wmSndWave | wmLcdc | wmStat | wmBgpi | wmBgpd | wmObpi | wmObpd
  | wmHdma1 | wmHdma2 | wmHdma3 | wmHdma4 | wmFlat => rfl

/-- R171 for one step, whatever the outside has put to the block. -/
theorem step_mapExternal (hsel : s.rtcSel ≠ 0)
    (hp : ∀ w rest, s.inputs = .transaction w :: rest → selectsRamBank (decode s.mode w) = true → p = id) :
    step (s.mapExternal g p) = mapNext (State.mapExternal g p) (step s) := by
  cases hf : s.fault with
  | some f => rw [step_of_fault hf, step_of_fault (s := s.mapExternal g p) hf]; rfl
  | none =>
    rcases hi : s.inputs with _ | ⟨w | e, rest⟩
    · rw [step_idle hf hi, step_idle (s := s.mapExternal g p) hf hi]; rfl
    · rw [step_transaction hf hi, step_transaction (s := s.mapExternal g p) hf hi]
      exact exec_mapExternal (s := s.setInputs rest) hsel (decode_reachesEram hsel w) (hp w rest hi)
    · rw [step_env hf hi, step_env (s := s.mapExternal g p) hf hi]
      exact congrArg Host.Outcome.next (applyEnv_mapExternal (s := s.setInputs rest) e)

/-! ## What R171 says -/

theorem step_mapped_eram_irrelevant (hsel : s.rtcSel ≠ 0) (e : Memory) :
    step { s with eram := e } = mapNext (fun t => { t with eram := e }) (step s) :=
  step_mapExternal (g := fun _ => e) (p := id) hsel fun _ _ _ _ => rfl

/-- When a step commutes with a change that leaves its first state as it is, the change leaves its next state as it is too. -/
theorem next_eq_of_step_eq_mapNext {f : State → State} (hback : step s = mapNext f (step s)) (h : step s = .next t) : t = f t := by
  rw [h] at hback
  exact Host.Outcome.next.inj hback

theorem step_mapped_eram (hsel : s.rtcSel ≠ 0) (h : step s = .next t) : t.eram = s.eram :=
  (congrArg State.eram (next_eq_of_step_eq_mapNext (step_mapped_eram_irrelevant hsel s.eram) h)).trans rfl

/-- An MBC3 step that leaves the clock mapped performs no `WC.MBC3.RAMB`, so it commutes with a change of the pointer too. -/
theorem step_mapped_ramBank (hsel : s.rtcSel ≠ 0) (hkind : s.cfg.kind = .mbc3) (h : step s = .next t) (ht : t.rtcSel ≠ 0) :
    t.ramBank = s.ramBank := by
  have hback := step_mapExternal (g := id) (p := fun _ => s.ramBank) hsel fun w rest hi hramb => by
    obtain ⟨hf, -⟩ := step_cases h
    obtain ⟨a, v, hop⟩ := decode_selectsRamBank_mbc3 (m := s.mode) hkind hramb
    rw [step_transaction hf hi, hop] at h
    have hunmapped : t.rtcSel = 0 := (congrArg State.rtcSel (Host.Outcome.next.inj h)).symm
    exact absurd hunmapped ht
  exact (congrArg State.ramBank (next_eq_of_step_eq_mapNext hback h)).trans rfl

/-- The bank that `WC.MBC3.RAMB` names is visible at once, with the contents `s` holds. -/
theorem exec_wcMbc3Ramb_then_read {b : Addr} (hb : within 0xa000 0xc000 b = true) (hv : v.toNat < s.cfg.nEramBanks) :
    ∃ t, exec (.wcMbc3Ramb a v) s = .next t ∧
      exec (decode t.mode (readWord b)) t = .next (t.respond (Memory.read s.eram (eramIndex v b))) := by
  refine ⟨({ s with rtcSel := 0, ramBank := v } : State).complete, rfl, ?_⟩
  rw [decode_readWord, decodeRead_eram rfl hb]
  exact congrArg (answer _) (eramCell_ok b hv)

/-- Settles O20: no word stands for an access to external RAM while the clock is mapped, no transfer reaches it either, and
`WC.MBC3.RAMB` moves the pointer and the selector only. -/
theorem mappedClockHidesExternalRam : Obligations.MappedClockHidesExternalRam := fun _ hsel =>
  ⟨step_mapped_eram_irrelevant hsel, fun _ hkind h => ⟨step_mapped_eram hsel h, step_mapped_ramBank hsel hkind h⟩,
    fun _ _ _ => exec_wcMbc3Ramb_then_read⟩

end Sys2Proof.Machine
end

section
/-! PROOF. The rows of the dispatcher (spec 44_io_dispatcher.md) that only store (R213), that mirror the byte into the graphics fields
(R201, R202) and that forward it to the sound collaborator (R207). -/
namespace Sys2Proof.Machine
open Claims (selects stored)

variable {s : State} {m : Mode} {a b : Addr} {v : Byte}

/-! ## The operation of a write to a register or in the first sound window -/

/-- A named register's write pattern selects the operation that the dispatcher gives its address (R102, R200). -/
theorem selects_register {i : Byte → Instr} (hr : m.regs.wf = true) (ha : a ∈ m.regs.toList)
    (hrow : ∀ v, decodeFlatStore m a v = i v) : selects m (writeWord a 0) 0x1ffff00 (fun _ v => i v) := by
  intro w hw
  obtain ⟨hdir, haddr⟩ := write_register_fields hw
  rw [decode_write hdir, haddr, decodeWrite_register hr ha, hrow]

theorem decodeFlatStore_lcdc (hr : m.regs.wf = true) : decodeFlatStore m m.regs.lcdc v = .wmLcdc v := by
  simp only [decodeFlatStore, ioRow_lcdc hr]

theorem decodeFlatStore_stat (hr : m.regs.wf = true) : decodeFlatStore m m.regs.stat v = .wmStat v := by
  simp only [decodeFlatStore, ioRow_stat hr]

theorem decodeFlatStore_hdma1 (hr : m.regs.wf = true) : decodeFlatStore m m.regs.hdma1 v = .wmHdma1 v := by
  simp only [decodeFlatStore, ioRow_hdma1 hr]

theorem decodeFlatStore_hdma2 (hr : m.regs.wf = true) : decodeFlatStore m m.regs.hdma2 v = .wmHdma2 v := by
  simp only [decodeFlatStore, ioRow_hdma2 hr]

theorem decodeFlatStore_hdma3 (hr : m.regs.wf = true) : decodeFlatStore m m.regs.hdma3 v = .wmHdma3 v := by
  simp only [decodeFlatStore, ioRow_hdma3 hr]

theorem decodeFlatStore_hdma4 (hr : m.regs.wf = true) : decodeFlatStore m m.regs.hdma4 v = .wmHdma4 v := by
  simp only [decodeFlatStore, ioRow_hdma4 hr]

theorem decodeWrite_sndReg (hr : m.regs.wf = true) (ha : within 0xff10 0xff27 a = true) : decodeWrite m a v = .wmSndReg a v := by
  have hhigh : 0xe000 ≤ a.toNat := by rw [within_iff] at ha; omega
  have hsound : inSoundWindows a = true := by rw [inSoundWindows, ha, Bool.true_or]
  have hrow : ioRow m.regs a = .sndReg := by rw [ioRow_sound hr hsound, if_pos ha]
  rw [decodeWrite, regionW_high hhigh]
  simp only [decodeFlatStore, hrow]

/-- With the window's own test false, every line of the lookup gives another row. -/
theorem within_of_ioRow_sndReg {r : AddrMap} (h : ioRow r a = .sndReg) : within 0xff10 0xff27 a = true := by
  by_contra hout
  simp [ioRow, hout, ite_eq_iff] at h

theorem within_of_decodeFlatStore_wmSndReg {u : Byte} (h : decodeFlatStore m a u = .wmSndReg b v) :
    within 0xff10 0xff27 b = true := by
  unfold decodeFlatStore at h
  cases hrow : ioRow m.regs a <;> rw [hrow] at h <;> cases h
  exact within_of_ioRow_sndReg hrow

/-- Whatever the map, only the writes of the first sound window decode to `WM.SND.REG`. -/
theorem within_of_decode_wmSndReg {w : TWord} (h : decode m w = .wmSndReg b v) : within 0xff10 0xff27 b = true := by
  cases hw : w.isWrite with
  | false =>
    rw [decode_read hw, decodeRead] at h
    cases hregion : regionR m w.addr <;> rw [hregion] at h <;> cases h
  | true =>
    rw [decode_write hw, decodeWrite] at h
    cases hregion : regionW m w.addr <;> rw [hregion] at h
    case flat => exact within_of_decodeFlatStore_wmSndReg h
    case cart =>
      have hcommand : isCommand (.wmSndReg b v) = true := h ▸ decodeCommand_isCommand m w.addr w.data
      cases hcommand
    all_goals cases h

/-! ## What a register that is read raw reads back -/

theorem exec_read_after_putFlat (hraw : (Instr.rdFlat a).wf s.mode = true) :
    exec (decode (s.putFlat a v).complete.mode (readWord a)) (s.putFlat a v).complete =
      .next ((s.putFlat a v).complete.respond v) := by
  rw [decode_readWord, show decodeRead (s.putFlat a v).complete.mode a = .rdFlat a from decodeRead_flat hraw]
  change answer _ (.ok (flatCell (s.putFlat a v).complete a)) = _
  rw [flatCell_complete, flatCell_putFlat_same, answer_ok]

/-- R213 for one register: its row is the flat store alone, and R61 reads it raw. -/
theorem plainRegister_stores {i : Byte → Instr} (hr : s.cfg.regs.wf = true) (ha : a ∈ s.cfg.regs.toList)
    (hraw : (Instr.rdFlat a).wf s.mode = true) (hrow : ∀ v, decodeFlatStore s.mode a v = i v)
    (hexec : ∀ v, exec (i v) s = .next (s.putFlat a v).complete) :
    selects s.mode (writeWord a 0) 0x1ffff00 (fun _ v => i v) ∧
      ∀ v, ∃ t, exec (i v) s = .next t ∧ t = { s with flat := t.flat, response := none } ∧
        stored s.flat t.flat a.toNat v ∧ exec (decode t.mode (readWord a)) t = .next { t with response := some v } :=
  ⟨selects_register (m := s.mode) hr ha hrow, fun v =>
    ⟨_, hexec v, rfl, stored_write _ _ _, exec_read_after_putFlat hraw⟩⟩

/-! ## The obligations -/

/-- Settles O35: each of the four has a dispatcher row of its own that stores and does nothing else, and none of them is among the
registers that R61 reads from elsewhere. -/
theorem storeVideoDmaRegisters : Obligations.StoreVideoDmaRegisters := by
  intro s hr
  have hmode : s.mode.regs.wf = true := hr
  have hraw := rdFlat_wf_raw_registers hmode
  simp only [List.forall_mem_cons, List.not_mem_nil, false_imp_iff, implies_true, and_true] at hraw ⊢
  obtain ⟨-, -, -, hraw1, hraw2, hraw3, hraw4, -⟩ := hraw
  refine ⟨plainRegister_stores hr ?_ hraw1 (fun _ => decodeFlatStore_hdma1 hmode) fun _ => rfl,
    plainRegister_stores hr ?_ hraw2 (fun _ => decodeFlatStore_hdma2 hmode) fun _ => rfl,
    plainRegister_stores hr ?_ hraw3 (fun _ => decodeFlatStore_hdma3 hmode) fun _ => rfl,
    plainRegister_stores hr ?_ hraw4 (fun _ => decodeFlatStore_hdma4 hmode) fun _ => rfl⟩ <;>
  simp [AddrMap.toList]

/-- Settles O44: each register has a dispatcher row of its own, whose meaning puts the byte both in the flat cell and in the field
that a read of the register answers. -/
theorem writeLcdRegisters : Obligations.WriteLcdRegisters := fun s hr =>
  ⟨selects_register (m := s.mode) hr (by simp [AddrMap.toList]) fun _ => decodeFlatStore_lcdc hr,
    selects_register (m := s.mode) hr (by simp [AddrMap.toList]) fun _ => decodeFlatStore_stat hr,
    fun _ => ⟨⟨_, rfl, rfl, stored_write _ _ _, rfl⟩, ⟨_, rfl, rfl, stored_write _ _ _, rfl⟩⟩⟩

/-- Settles O47: no named register lies in the window, so each of its writes takes the first sound row; only that row gives the
operation, and it ends before 0xff27. -/
theorem writeSoundRegisters : Obligations.WriteSoundRegisters := by
  refine fun s hr => ⟨fun w hw ha => (decode_write hw).trans (decodeWrite_sndReg (m := s.mode) hr ha), fun w v h => ?_,
    fun a v _ => ⟨_, rfl, rfl, stored_write _ _ _⟩⟩
  exact absurd (within_of_decode_wmSndReg h) (by decide)

end Sys2Proof.Machine
end

section
/-! PROOF. The decoder and the encoder are inverse to each other (spec 30_encoding.md, R90, R102): what each class of words decodes to,
that every operation of a mode is what its own word decodes to, and that every word is the word of a well-formed operation. -/
namespace Sys2Proof.Machine

variable {m : Mode} {a b : Addr} {v : Byte}

/-! ## The operation of a read, by its address (R61) -/

theorem decodeRead_romx (ha : within 0x4000 0x8000 a = true) : decodeRead m a = .rdRomx a := by
  simp [decodeRead, regionR_romx ha]

theorem decodeRead_bgpd (hr : m.regs.wf = true) : decodeRead m m.regs.bgpd = .rdBgpd := by
  have hlcdc : m.regs.bgpd ≠ m.regs.lcdc := ne_of_ioRow (r := m.regs) (by simp [ioRow_bgpd hr, ioRow_lcdc hr])
  have hstat : m.regs.bgpd ≠ m.regs.stat := ne_of_ioRow (r := m.regs) (by simp [ioRow_bgpd hr, ioRow_stat hr])
  simp [decodeRead, regionR_register hr (show m.regs.bgpd ∈ m.regs.toList by simp [AddrMap.toList]), hlcdc, hstat]

theorem decodeRead_obpd (hr : m.regs.wf = true) : decodeRead m m.regs.obpd = .rdObpd := by
  have hlcdc : m.regs.obpd ≠ m.regs.lcdc := ne_of_ioRow (r := m.regs) (by simp [ioRow_obpd hr, ioRow_lcdc hr])
  have hstat : m.regs.obpd ≠ m.regs.stat := ne_of_ioRow (r := m.regs) (by simp [ioRow_obpd hr, ioRow_stat hr])
  have hbgpd : m.regs.obpd ≠ m.regs.bgpd := ne_of_ioRow (r := m.regs) (by simp [ioRow_obpd hr, ioRow_bgpd hr])
  simp [decodeRead, regionR_register hr (show m.regs.obpd ∈ m.regs.toList by simp [AddrMap.toList]), hlcdc, hstat, hbgpd]

/-! ## The operation of a command, by its window and the controller kind (R140) -/

theorem decodeWrite_nopLow (ha : within 0x0000 0x2000 a = true) : decodeWrite m a v = .wcNopLow a v := by
  obtain ⟨-, hhi⟩ := (within_iff _ _ _).mp ha
  rw [decodeWrite_command (by omega), decodeCommand, if_pos hhi]

theorem decodeWrite_nopKind (hkind : m.kind.isPlain = true) (ha : within 0x2000 0x8000 a = true) :
    decodeWrite m a v = .wcNopKind a v := by
  obtain ⟨hlo, hhi⟩ := (within_iff _ _ _).mp ha
  rw [decodeWrite_command (by omega), decodeCommand, if_neg (by omega)]
  cases hk : m.kind with
  | noController | other => rfl
  | mbc1 | mbc3 => rw [hk] at hkind; cases hkind

theorem decodeWrite_mbc1Romb (hkind : m.kind = .mbc1) (ha : within 0x2000 0x4000 a = true) :
    decodeWrite m a v = .wcMbc1Romb a v := by
  obtain ⟨hlo, hhi⟩ := (within_iff _ _ _).mp ha
  rw [decodeWrite_command (by omega), decodeCommand, if_neg (by omega), hkind]
  simp only [if_pos hhi]

theorem decodeWrite_mbc3Romb (hkind : m.kind = .mbc3) (ha : within 0x2000 0x4000 a = true) :
    decodeWrite m a v = .wcMbc3Romb a v := by
  obtain ⟨hlo, hhi⟩ := (within_iff _ _ _).mp ha
  rw [decodeWrite_command (by omega), decodeCommand, if_neg (by omega), hkind]
  simp only [if_pos hhi]

theorem decodeWrite_mbc1Romhi (hkind : m.kind = .mbc1) (hmode : m.bankMode = false) (ha : within 0x4000 0x6000 a = true) :
    decodeWrite m a v = .wcMbc1Romhi a v := by
  obtain ⟨hlo, hhi⟩ := (within_iff _ _ _).mp ha
  rw [decodeWrite_command (by omega), decodeCommand, if_neg (by omega), hkind]
  simp only [if_neg (Nat.not_lt.mpr hlo), if_pos hhi, hmode, Bool.false_eq_true, if_false]

theorem decodeWrite_mbc3Secign (hkind : m.kind = .mbc3) (ha : within 0x4000 0x6000 a = true) (hv : 0x0d ≤ v.toNat) :
    decodeWrite m a v = .wcMbc3Secign a v := by
  rw [decodeWrite_mbc3_secondary hkind ha, if_neg (by omega), if_neg (by omega)]

theorem decodeWrite_mbc1Mode (hkind : m.kind = .mbc1) (ha : within 0x6000 0x8000 a = true) :
    decodeWrite m a v = .wcMbc1Mode a v := by
  obtain ⟨hlo, hhi⟩ := (within_iff _ _ _).mp ha
  rw [decodeWrite_command (by omega), decodeCommand, if_neg (by omega), hkind]
  simp only [if_neg (show ¬ a.toNat < 0x4000 by omega), if_neg (Nat.not_lt.mpr hlo)]

theorem decodeWrite_mbc3Latch (hkind : m.kind = .mbc3) (ha : within 0x6000 0x8000 a = true) :
    decodeWrite m a v = .wcMbc3Latch a v := by
  obtain ⟨hlo, hhi⟩ := (within_iff _ _ _).mp ha
  rw [decodeWrite_command (by omega), decodeCommand, if_neg (by omega), hkind]
  simp only [if_neg (show ¬ a.toNat < 0x4000 by omega), if_neg (Nat.not_lt.mpr hlo)]

/-! ## The operation of a store and of a dispatcher row (R62, R200) -/

theorem decodeWrite_eram (hsel : m.rtcSel = 0) (ha : within 0xa000 0xc000 a = true) : decodeWrite m a v = .wmEram a v := by
  rw [decodeWrite, regionW_window ha, if_pos hsel]

theorem decodeWrite_sndWave (hr : m.regs.wf = true) (ha : within 0xff30 0xff40 a = true) : decodeWrite m a v = .wmSndWave a v := by
  have hbounds := (within_iff _ _ _).mp ha
  have hfirst : within 0xff10 0xff27 a = false := by rw [within_false_iff]; omega
  have hsound : inSoundWindows a = true := by rw [inSoundWindows, ha, Bool.or_true]
  have hrow : ioRow m.regs a = .sndWave := by rw [ioRow_sound hr hsound, hfirst]; rfl
  rw [decodeWrite, regionW_high (by omega)]
  simp only [decodeFlatStore, hrow]

theorem decodeFlatStore_bgpi (hr : m.regs.wf = true) : decodeFlatStore m m.regs.bgpi v = .wmBgpi v := by
  simp only [decodeFlatStore, ioRow_bgpi hr]

theorem decodeFlatStore_bgpd (hr : m.regs.wf = true) : decodeFlatStore m m.regs.bgpd v = .wmBgpd v := by
  simp only [decodeFlatStore, ioRow_bgpd hr]

theorem decodeFlatStore_obpi (hr : m.regs.wf = true) : decodeFlatStore m m.regs.obpi v = .wmObpi v := by
  simp only [decodeFlatStore, ioRow_obpi hr]

theorem decodeFlatStore_obpd (hr : m.regs.wf = true) : decodeFlatStore m m.regs.obpd v = .wmObpd v := by
  simp only [decodeFlatStore, ioRow_obpd hr]

theorem decodeFlatStore_vbk (hr : m.regs.wf = true) : decodeFlatStore m m.regs.vbk v = .wmVbk v := by
  simp only [decodeFlatStore, ioRow_vbk hr]

theorem decodeFlatStore_svbk (hr : m.regs.wf = true) : decodeFlatStore m m.regs.svbk v = .wmSvbk v := by
  simp only [decodeFlatStore, ioRow_svbk hr]

/-- A write to a named register of a well-formed map, of which the row gives the operation. -/
theorem decodeWrite_register_row {i : Instr} (hr : m.regs.wf = true) (hrow : decodeFlatStore m a v = i)
    (ha : a ∈ m.regs.toList := by simp [AddrMap.toList]) : decodeWrite m a v = i :=
  (decodeWrite_register hr ha v).trans hrow

/-! ## Decoding an encoded operation -/

/-- Settles O2: the row's condition puts the word where the decoder gives the row's operation. -/
theorem decodeOfEncodeIsTheInstruction : Obligations.DecodeOfEncodeIsTheInstruction := by
  intro m i hr hi
  cases i
  case rdFlat a => exact (decode_readWord m a).trans (decodeRead_flat hi)
  case wmFlat a v => exact (decode_writeWord m a v).trans (decodeWrite_flat hi)
  all_goals
    simp only [encode, decode_readWord, decode_writeWord]
    simp only [Instr.wf, Bool.and_eq_true, decide_eq_true_eq, beq_iff_eq, bne_iff_ne, ne_eq, Bool.not_eq_true', and_assoc] at hi
  case rdRomx => exact decodeRead_romx hi
  case rdVram => exact decodeRead_vram hi
  case rdEram => exact decodeRead_eram hi.2 hi.1
  case rdRtc => exact decodeRead_rtc hi.2 hi.1
  case rdWramx => exact decodeRead_wramx (of_decide_eq_true hi.2) hi.1
  case rdSnd => exact decodeRead_snd hi
  case rdLcdc => exact decodeRead_lcdc hr
  case rdStat => exact decodeRead_stat hr
  case rdBgpd => exact decodeRead_bgpd hr
  case rdObpd => exact decodeRead_obpd hr
  case wcNopLow => exact decodeWrite_nopLow hi
  case wcNopKind => exact decodeWrite_nopKind hi.2 hi.1
  case wcMbc1Romb => exact decodeWrite_mbc1Romb hi.2 hi.1
  case wcMbc3Romb => exact decodeWrite_mbc3Romb hi.2 hi.1
  case wcMbc1Romhi => obtain ⟨ha, hkind, hmode⟩ := hi; exact decodeWrite_mbc1Romhi hkind hmode ha
  case wcMbc1Ramb => obtain ⟨ha, hkind, hmode⟩ := hi; exact decodeWrite_mbc1Ramb hkind hmode ha
  case wcMbc3Ramb => obtain ⟨ha, hkind, hv⟩ := hi; exact decodeWrite_mbc3Ramb hkind ha hv
  case wcMbc3Rtcsel => obtain ⟨ha, hkind, hlo, hhi⟩ := hi; exact decodeWrite_mbc3Rtcsel hkind ha hlo hhi
  case wcMbc3Secign => obtain ⟨ha, hkind, hv⟩ := hi; exact decodeWrite_mbc3Secign hkind ha hv
  case wcMbc1Mode => exact decodeWrite_mbc1Mode hi.2 hi.1
  case wcMbc3Latch => exact decodeWrite_mbc3Latch hi.2 hi.1
  case wmVram => exact decodeWrite_vram hi
  case wmEram => exact decodeWrite_eram hi.2 hi.1
  case wmRtc => exact decodeWrite_rtc hi.2 hi.1
  case wmWramx => exact decodeWrite_wramx (of_decide_eq_true hi.2) hi.1
  case wmSndReg => exact decodeWrite_sndReg hr hi
  case wmSndWave => exact decodeWrite_sndWave hr hi
  case wmLcdc => exact decodeWrite_register_row hr (decodeFlatStore_lcdc hr)
  case wmStat => exact decodeWrite_register_row hr (decodeFlatStore_stat hr)
  case wmBgpi => exact decodeWrite_register_row hr (decodeFlatStore_bgpi hr)
  case wmBgpd => exact decodeWrite_register_row hr (decodeFlatStore_bgpd hr)
  case wmObpi => exact decodeWrite_register_row hr (decodeFlatStore_obpi hr)
  case wmObpd => exact decodeWrite_register_row hr (decodeFlatStore_obpd hr)
  case wmVbk => exact decodeWrite_register_row hr (decodeFlatStore_vbk hr)
  case wmSvbk => exact decodeWrite_register_row hr (decodeFlatStore_svbk hr)
  case wmDma => exact decodeWrite_register_row hr (decodeFlatStore_dma hr)
  case wmHdma1 => exact decodeWrite_register_row hr (decodeFlatStore_hdma1 hr)
  case wmHdma2 => exact decodeWrite_register_row hr (decodeFlatStore_hdma2 hr)
  case wmHdma3 => exact decodeWrite_register_row hr (decodeFlatStore_hdma3 hr)
  case wmHdma4 => exact decodeWrite_register_row hr (decodeFlatStore_hdma4 hr)
  case wmHdma5 => exact decodeWrite_register_row hr (decodeFlatStore_hdma5 hr)

/-! ## Encoding a decoded word -/

theorem decodeRead_inverse (hr : m.regs.wf = true) :
    (decodeRead m a).wf m = true ∧ encode m (decodeRead m a) = readWord a := by
  by_cases hrom : within 0x4000 0x8000 a = true
  · rw [decodeRead_romx hrom]; exact ⟨hrom, rfl⟩
  by_cases hvram : within 0x8000 0xa000 a = true
  · rw [decodeRead_vram hvram]; exact ⟨hvram, rfl⟩
  by_cases hwindow : within 0xa000 0xc000 a = true
  · by_cases hsel : m.rtcSel = 0
    · rw [decodeRead_eram hsel hwindow]; exact ⟨by simp only [Instr.wf, hwindow, hsel]; rfl, rfl⟩
    · rw [decodeRead_rtc hsel hwindow]; exact ⟨by simp only [Instr.wf, hwindow, bne_iff_ne.mpr hsel]; rfl, rfl⟩
  by_cases hwram : (m.wramBanked && within 0xd000 0xe000 a) = true
  · obtain ⟨hbank, hwin⟩ := Bool.and_eq_true _ _ ▸ hwram
    rw [decodeRead_wramx (of_decide_eq_true hbank) hwin]; exact ⟨by simp only [Instr.wf, hbank, hwin]; rfl, rfl⟩
  by_cases hsound : inSoundWindows a = true
  · rw [decodeRead_snd hsound]; exact ⟨hsound, rfl⟩
  by_cases hregs : ∃ b ∈ [m.regs.lcdc, m.regs.stat, m.regs.bgpd, m.regs.obpd], b = a
  · simp only [List.mem_cons, List.not_mem_nil, or_false, exists_eq_right] at hregs
    obtain rfl | rfl | rfl | rfl := hregs
    · rw [decodeRead_lcdc hr]; exact ⟨rfl, rfl⟩
    · rw [decodeRead_stat hr]; exact ⟨rfl, rfl⟩
    · rw [decodeRead_bgpd hr]; exact ⟨rfl, rfl⟩
    · rw [decodeRead_obpd hr]; exact ⟨rfl, rfl⟩
  · have hlow : within 0x4000 0xc000 a = false := by
      rw [within_false_iff]
      simp only [within_iff] at hrom hvram hwindow
      omega
    have hwf : (Instr.rdFlat a).wf m = true :=
      rdFlat_wf_iff.mpr ⟨hlow, Bool.not_eq_true _ ▸ hwram, Bool.not_eq_true _ ▸ hsound, fun b hb e => hregs ⟨b, hb, e⟩⟩
    rw [decodeRead_flat hwf]; exact ⟨hwf, rfl⟩

theorem decodeCommand_wf (ha : a.toNat ≤ 0x7fff) : (decodeCommand m a v).wf m = true := by
  unfold decodeCommand
  repeat' split
  all_goals simp [Instr.wf, Kind.isPlain, *]
  all_goals omega

theorem decodeCommand_encode : encode m (decodeCommand m a v) = writeWord a v := by
  unfold decodeCommand
  repeat' split
  all_goals rfl

theorem within_of_ioRow_sndWave {r : AddrMap} (h : ioRow r a = .sndWave) : within 0xff30 0xff40 a = true := by
  by_contra hout
  simp [ioRow, hout, ite_eq_iff] at h

/-- With no dispatcher row an address is no named register and lies in no sound window. -/
theorem clear_of_ioRow_plain {r : AddrMap} (h : ioRow r a = .plain) : a ∉ r.toList ∧ inSoundWindows a = false := by
  simp only [ioRow, ite_eq_iff, reduceCtorEq, and_false, false_or, beq_iff_eq, Bool.not_eq_true] at h
  simp [AddrMap.toList, inSoundWindows, h]

theorem decodeFlatStore_encode : encode m (decodeFlatStore m a v) = writeWord a v := by
  unfold decodeFlatStore
  cases hrow : ioRow m.regs a <;> exact congrArg (writeWord · v) (rowAddr_of_ioRow hrow)

theorem decodeFlatStore_wf (ha : 0xc000 ≤ a.toNat) (hwram : (m.wramBanked && within 0xd000 0xe000 a) = false) :
    (decodeFlatStore m a v).wf m = true := by
  unfold decodeFlatStore
  cases hrow : ioRow m.regs a with
  | sndReg => exact within_of_ioRow_sndReg hrow
  | sndWave => exact within_of_ioRow_sndWave hrow
  | plain =>
    obtain ⟨hregs, hsound⟩ := clear_of_ioRow_plain hrow
    simp only [Instr.wf, ha, hwram, hsound, decide_true, Bool.not_false, Bool.true_and, List.all_eq_true]
    exact fun b hb => bne_iff_ne.mpr fun e => hregs (e ▸ hb)
  | _ => rfl

theorem decodeWrite_inverse : (decodeWrite m a v).wf m = true ∧ encode m (decodeWrite m a v) = writeWord a v := by
  by_cases hcart : a.toNat ≤ 0x7fff
  · rw [decodeWrite_command hcart]; exact ⟨decodeCommand_wf hcart, decodeCommand_encode⟩
  by_cases hvram : within 0x8000 0xa000 a = true
  · rw [decodeWrite_vram hvram]; exact ⟨hvram, rfl⟩
  by_cases hwindow : within 0xa000 0xc000 a = true
  · by_cases hsel : m.rtcSel = 0
    · rw [decodeWrite_eram hsel hwindow]; exact ⟨by simp only [Instr.wf, hwindow, hsel]; rfl, rfl⟩
    · rw [decodeWrite_rtc hsel hwindow]; exact ⟨by simp only [Instr.wf, hwindow, bne_iff_ne.mpr hsel]; rfl, rfl⟩
  by_cases hwram : (m.wramBanked && within 0xd000 0xe000 a) = true
  · obtain ⟨hbank, hwin⟩ := Bool.and_eq_true _ _ ▸ hwram
    rw [decodeWrite_wramx (of_decide_eq_true hbank) hwin]; exact ⟨by simp only [Instr.wf, hbank, hwin]; rfl, rfl⟩
  · have hhigh : 0xc000 ≤ a.toNat := by
      simp only [within_iff] at hvram hwindow
      omega
    have hplain : (m.wramBanked && within 0xd000 0xe000 a) = false := Bool.not_eq_true _ ▸ hwram
    rw [decodeWrite, regionW_flat hhigh hplain]
    exact ⟨decodeFlatStore_wf hhigh hplain, decodeFlatStore_encode⟩

/-- Every word stands for an operation that is well formed in the mode (R102, R103). -/
theorem decode_wf (hr : m.regs.wf = true) (w : TWord) : (decode m w).wf m = true := by
  cases hw : w.isWrite with
  | false => exact decode_read hw ▸ (decodeRead_inverse hr).1
  | true => exact decode_write hw ▸ decodeWrite_inverse.1

theorem encode_decode (hr : m.regs.wf = true) (w : TWord) :
    encode m (decode m w) = if w.isWrite then w else readWord w.addr := by
  cases hw : w.isWrite with
  | false => exact decode_read hw ▸ (decodeRead_inverse hr).2
  | true => exact decode_write hw ▸ decodeWrite_inverse.2.trans (writeWord_fields hw)

/-- Settles O3: the lines of R61 and R62 leave no address out, and the operation each gives keeps the address and the byte. -/
theorem encodeOfDecodeIsTheWord : Obligations.EncodeOfDecodeIsTheWord :=
  fun _ w hr => ⟨decode_wf hr w, encode_decode hr w⟩

end Sys2Proof.Machine
end

section
/-! PROOF. The opcode table and its selection rule (spec 30_encoding.md section 3, R102) agree with the decoder. A row that the word hits
either makes the decoded operation or comes after it in priority; some row makes it; and two rows of one operation have
patterns without a common word. -/
namespace Sys2Proof.Machine
open Claims (selects)

variable {m : Mode} {w mtch mask : TWord} {r : AddrMap} {p q : Row}

/-! ## Patterns, from the fields back to the word -/

/-- The converse of a pattern: a word whose direction, high address bits and high data bits are those of `mtch` matches. -/
theorem pattern_of_fields (j k : Nat) (hdir : mask.isWrite = true) (haddr : mask.addr = BitVec.allOnes 16 <<< j)
    (hdata : mask.data = BitVec.allOnes 8 <<< k) (hlowAddr : mtch.addr.toNat % 2 ^ j = 0) (hlowData : mtch.data.toNat % 2 ^ k = 0)
    (h₁ : w.isWrite = mtch.isWrite) (h₂ : w.addr.toNat / 2 ^ j = mtch.addr.toNat / 2 ^ j)
    (h₃ : w.data.toNat / 2 ^ k = mtch.data.toNat / 2 ^ k) : (w &&& mask) = mtch := by
  refine word_ext ?_ ?_ ?_
  · rw [and_isWrite, hdir, Bool.and_true, h₁]
  · rw [and_addr, (and_mask_eq_iff _ _ _ haddr hlowAddr).mpr h₂]
  · rw [and_data, (and_mask_eq_iff _ _ _ hdata hlowData).mpr h₃]

/-- A pattern of `isWindowPattern` that leaves the data bits free. -/
def isAddressMask (mask : TWord) (k : Nat) : Bool :=
  mask.isWrite && decide (mask.addr = BitVec.allOnes 16 <<< k) && decide (mask.data = 0)

/-- Every word of a window's direction and addresses matches the window's pattern. -/
theorem isWindowPattern_matches {write : Bool} {k lo hi : Nat}
    (hp : (isWindowPattern mtch mask write k lo hi && isAddressMask mask k && decide (mtch.addr.toNat % 2 ^ k = 0) &&
      decide (mtch.data = 0)) = true)
    (hw : w.isWrite = write) (ha : within lo hi w.addr = true) : (w &&& mask) = mtch := by
  simp only [isWindowPattern, isAddressMask, Bool.and_eq_true, decide_eq_true_eq, beq_iff_eq] at hp
  obtain ⟨⟨⟨⟨⟨⟨-, hlo⟩, hhi⟩, hdir⟩, ⟨⟨hmdir, hmaddr⟩, hmdata⟩⟩, hlow⟩, hdata⟩ := hp
  rw [within_iff] at ha
  refine pattern_of_fields k 8 hmdir hmaddr (by rw [hmdata]; decide) hlow (by rw [hdata]; decide) (hw.trans hdir.symm) ?_ ?_
  · refine Nat.div_eq_of_lt_le (by omega) ?_
    rw [Nat.succ_mul]
    omega
  · rw [hdata, Nat.div_eq_of_lt w.data.isLt]
    rfl

theorem register_matches_read {a : Addr} (hw : w.isWrite = false) (ha : w.addr = a) : (w &&& 0x1ffff00) = readWord a := by
  refine pattern_of_fields 0 8 (by decide) (by decide) (by decide) (Nat.mod_one _) (by simp) (by simpa using hw) (by simp [ha]) ?_
  rw [Nat.div_eq_of_lt w.data.isLt, readWord_data]
  rfl

theorem register_matches_write {a : Addr} (hw : w.isWrite = true) (ha : w.addr = a) : (w &&& 0x1ffff00) = writeWord a 0 := by
  refine pattern_of_fields 0 8 (by decide) (by decide) (by decide) (Nat.mod_one _) (by simp) (by simpa using hw) (by simp [ha]) ?_
  rw [Nat.div_eq_of_lt w.data.isLt, writeWord_data]
  rfl

/-- Every write of `[0x4000, 0x6000)` with a byte of the range matches a pattern of `isSecondaryPattern`. -/
theorem isSecondaryPattern_matches {k lo hi : Nat}
    (hp : (isSecondaryPattern mtch mask k lo hi && mask.isWrite && mtch.isWrite && decide (mask.addr = 0xe000) &&
      decide (mtch.addr = 0x4000)) = true)
    (hw : w.isWrite = true) (ha : within 0x4000 0x6000 w.addr = true) (hlo : lo ≤ w.data.toNat) (hhi : w.data.toNat < hi) :
    (w &&& mask) = mtch := by
  simp only [isSecondaryPattern, Bool.and_eq_true, decide_eq_true_eq] at hp
  obtain ⟨⟨⟨⟨⟨⟨⟨⟨-, hmdata⟩, hlow⟩, hlo'⟩, hhi'⟩, hmdir⟩, hdir⟩, hmaddr⟩, haddr⟩ := hp
  rw [within_iff] at ha
  refine pattern_of_fields 13 k hmdir (by rw [hmaddr]; decide) hmdata (by rw [haddr]; decide) hlow (hw.trans hdir.symm) ?_ ?_
  · rw [haddr]
    show w.addr.toNat / 8192 = 2
    omega
  · refine Nat.div_eq_of_lt_le (by omega) ?_
    rw [Nat.succ_mul]
    omega

/-! ## The priority of a row is that of its operation -/

/-- The priority number that the table gives an operation. -/
def prioOf : Instr → Nat
  | .rdVram _ | .wcMbc3Secign _ _ => 2
  | .rdEram _ | .rdRtc _ => 3
  | .rdWramx _ => 4
  | .rdSnd _ => 5
  | .rdLcdc | .rdStat | .rdBgpd | .rdObpd => 6
  | .rdFlat _ | .wmFlat _ _ => 9
  | .rdRomx _ | .wcNopLow _ _ | .wcNopKind _ _ | .wcMbc1Romb _ _ | .wcMbc3Romb _ _ | .wcMbc1Romhi _ _ | .wcMbc1Ramb _ _
  | .wcMbc3Ramb _ _ | .wcMbc3Rtcsel _ _ | .wcMbc1Mode _ _ | .wcMbc3Latch _ _ | .wmVram _ _ | .wmEram _ _ | .wmRtc _ _
  | .wmWramx _ _ | .wmSndReg _ _ | .wmSndWave _ _ | .wmLcdc _ | .wmStat _ | .wmBgpi _ | .wmBgpd _ | .wmObpi _ | .wmObpd _
  | .wmVbk _ | .wmSvbk _ | .wmDma _ | .wmHdma1 _ | .wmHdma2 _ | .wmHdma3 _ | .wmHdma4 _ | .wmHdma5 _ => 1

/-- A row makes one operation, whatever the address and the byte, and has its priority. -/
def UniformRow (q : Row) : Prop :=
  ∀ a v, (q.make a v).ctorIdx = (q.make 0 0).ctorIdx ∧ q.prio = prioOf (q.make a v)

theorem opcodeTable_uniform : ∀ q ∈ opcodeTable r, UniformRow q := by
  simp only [opcodeTable, readRows, commandRows, writeRows, List.cons_append, List.nil_append, List.forall_mem_cons,
    List.not_mem_nil, false_imp_iff, implies_true, and_true]
  and_intros
  all_goals exact fun _ _ => ⟨rfl, rfl⟩

theorem decodeRead_prio (a : Addr) : decodeRead m a = .rdFlat a ∨ prioOf (decodeRead m a) < 9 := by
  unfold decodeRead
  cases regionR m a with
  | flat => exact .inl rfl
  | _ => exact .inr (by simp [prioOf])

theorem decodeCommand_prio (a : Addr) (v : Byte) : prioOf (decodeCommand m a v) < 9 := by
  unfold decodeCommand
  repeat' split
  all_goals simp [prioOf]

theorem decodeWrite_prio (a : Addr) (v : Byte) : decodeWrite m a v = .wmFlat a v ∨ prioOf (decodeWrite m a v) < 9 := by
  unfold decodeWrite
  cases regionW m a with
  | cart => exact .inr (decodeCommand_prio a v)
  | flat =>
    dsimp only [decodeFlatStore]
    cases ioRow m.regs a with
    | plain => exact .inl rfl
    | _ => exact .inr (by simp [prioOf])
  | _ => exact .inr (by simp [prioOf])

/-! ## What a row that the word hits says of the decoded operation -/

/-- Row `q` is sound at `w`: where it hits, it makes the decoded operation or comes after it. -/
def SoundRow (m : Mode) (w : TWord) (q : Row) : Prop :=
  q.hits m w = true → q.make w.addr w.data = decode m w ∨ prioOf (decode m w) < q.prio

theorem hits_iff : q.hits m w = true ↔ (w &&& q.mask) = q.mtch ∧ q.cond m = true := by
  simp [Row.hits]

theorem sound_of_selects (h : q.cond m = true → selects m q.mtch q.mask q.make) : SoundRow m w q := fun hq =>
  have ⟨hw, hc⟩ := hits_iff.mp hq
  .inl (h hc w hw).symm

/-- A named register's read pattern selects the operation that R61 gives its address. -/
theorem selects_read_register {a : Addr} {i : Instr} (h : decodeRead m a = i) :
    selects m (readWord a) 0x1ffff00 (fun _ _ => i) := by
  intro w hw
  obtain ⟨hdir, ha⟩ := read_register_fields hw
  rw [decode_read hdir, ha, h]

theorem sound_rdFlat {n : String} {c : Mode → Bool} :
    SoundRow m w ⟨n, 0x0000000, 0x1000000, c, 9, fun a _ => .rdFlat a⟩ := fun hq => by
  have hw : (w &&& 0x1000000) = 0x0000000 := (hits_iff.mp hq).1
  obtain ⟨hdir, -⟩ := isWindowPattern_fields (write := false) (k := 16) (lo := 0) (hi := 0x10000) (by decide) hw
  rw [decode_read hdir]
  exact (decodeRead_prio w.addr).imp_left Eq.symm

theorem sound_wmFlat {n : String} {c : Mode → Bool} :
    SoundRow m w ⟨n, 0x1800000, 0x1800000, c, 9, fun a v => .wmFlat a v⟩ := fun hq => by
  have hw : (w &&& 0x1800000) = 0x1800000 := (hits_iff.mp hq).1
  obtain ⟨hdir, -⟩ := isWindowPattern_fields (write := true) (k := 15) (lo := 0x8000) (hi := 0x10000) (by decide) hw
  rw [decode_write hdir]
  exact (decodeWrite_prio w.addr w.data).imp_left Eq.symm

/-- `WC.MBC3.SECIGN` hits for every byte, and is the operation where the two rows before it do not hit. -/
theorem sound_mbc3Secign {n : String} :
    SoundRow m w ⟨n, 0x1400000, 0x1e00000, (·.kind == .mbc3), 2, fun a v => .wcMbc3Secign a v⟩ := fun hq => by
  have hw : (w &&& 0x1e00000) = 0x1400000 := (hits_iff.mp hq).1
  have hkind : (m.kind == .mbc3) = true := (hits_iff.mp hq).2
  obtain ⟨hdir, ha⟩ := isWindowPattern_fields (write := true) (k := 13) (lo := 0x4000) (hi := 0x6000) (by decide) hw
  rw [decode_write hdir, decodeWrite_mbc3_secondary (eq_of_beq hkind) ha]
  split
  · exact .inr (by simp [prioOf])
  · split
    · exact .inr (by simp [prioOf])
    · exact .inl rfl

/-- A row of part of a sound window. -/
theorem sound_rdSnd {n : String} {c : Mode → Bool} (k lo hi : Nat) (hp : isWindowPattern mtch mask false k lo hi = true)
    (hin : 0xff10 ≤ lo ∧ hi ≤ 0xff27 ∨ 0xff30 ≤ lo ∧ hi ≤ 0xff40) :
    SoundRow m w ⟨n, mtch, mask, c, 5, fun a _ => .rdSnd a⟩ :=
  sound_of_selects fun _ => selects_read hp fun a ha => decodeRead_snd <| by
    simp only [inSoundWindows, Bool.or_eq_true, within_iff] at ha ⊢
    omega

/-- A row of part of the first sound window. -/
theorem sound_wmSndReg {n : String} {c : Mode → Bool} (hr : m.regs.wf = true) (k lo hi : Nat)
    (hp : isWindowPattern mtch mask true k lo hi = true) (hin : 0xff10 ≤ lo ∧ hi ≤ 0xff27) :
    SoundRow m w ⟨n, mtch, mask, c, 1, fun a v => .wmSndReg a v⟩ :=
  sound_of_selects fun _ => selects_write hp fun a v ha => decodeWrite_sndReg hr (by rw [within_iff] at ha ⊢; omega)

/-- The row of a write to a named register. -/
theorem sound_register {n : String} {c : Mode → Bool} {a : Addr} {i : Byte → Instr} (hr : m.regs.wf = true)
    (hrow : ∀ v, decodeFlatStore m a v = i v) (ha : a ∈ m.regs.toList := by simp [AddrMap.toList]) :
    SoundRow m w ⟨n, writeWord a 0, 0x1ffff00, c, 1, fun _ v => i v⟩ :=
  sound_of_selects fun _ => selects_register hr ha hrow

theorem readRows_sound (hr : m.regs.wf = true) : ∀ q ∈ readRows m.regs, SoundRow m w q := by
  simp only [readRows, List.cons_append, List.nil_append, List.forall_mem_cons, List.not_mem_nil, false_imp_iff, implies_true,
    and_true]
  refine ⟨?_, ?_, ?_, ?_, ?_, ?_, ?_, ?_, ?_, ?_, ?_, ?_, ?_, ?_, sound_rdFlat⟩
  · exact sound_of_selects fun _ => selects_read (k := 14) (by decide) fun _ => decodeRead_romx
  · exact sound_of_selects fun _ => selects_read (k := 13) (by decide) fun _ => decodeRead_vram
  · exact sound_of_selects fun h => selects_read (k := 13) (by decide) fun _ => decodeRead_eram (eq_of_beq h)
  · exact sound_of_selects fun h => selects_read (k := 13) (by decide) fun _ => decodeRead_rtc (bne_iff_ne.mp h)
  · exact sound_of_selects fun h => selects_read (k := 12) (by decide) fun _ => decodeRead_wramx (of_decide_eq_true h)
  · exact sound_rdSnd 4 0xff10 0xff20 (by decide) (by decide)
  · exact sound_rdSnd 2 0xff20 0xff24 (by decide) (by decide)
  · exact sound_rdSnd 1 0xff24 0xff26 (by decide) (by decide)
  · exact sound_rdSnd 0 0xff26 0xff27 (by decide) (by decide)
  · exact sound_rdSnd 4 0xff30 0xff40 (by decide) (by decide)
  · exact sound_of_selects fun _ => selects_read_register (decodeRead_lcdc hr)
  · exact sound_of_selects fun _ => selects_read_register (decodeRead_stat hr)
  · exact sound_of_selects fun _ => selects_read_register (decodeRead_bgpd hr)
  · exact sound_of_selects fun _ => selects_read_register (decodeRead_obpd hr)

theorem commandRows_sound : ∀ q ∈ commandRows, SoundRow m w q := by
  simp only [commandRows, List.cons_append, List.nil_append, List.forall_mem_cons, List.not_mem_nil, false_imp_iff, implies_true,
    and_true]
  refine ⟨?_, ?_, ?_, ?_, ?_, ?_, ?_, ?_, ?_, ?_, sound_mbc3Secign, ?_, ?_⟩
  · exact sound_of_selects fun _ => selects_write (k := 13) (by decide) fun _ _ => decodeWrite_nopLow
  · exact sound_of_selects fun h => selects_write (k := 13) (lo := 0x2000) (hi := 0x4000) (by decide) fun a v ha =>
      decodeWrite_nopKind h (by rw [within_iff] at ha ⊢; omega)
  · exact sound_of_selects fun h => selects_write (k := 14) (lo := 0x4000) (hi := 0x8000) (by decide) fun a v ha =>
      decodeWrite_nopKind h (by rw [within_iff] at ha ⊢; omega)
  · exact sound_of_selects fun h => selects_write (k := 13) (by decide) fun _ _ => decodeWrite_mbc1Romb (eq_of_beq h)
  · exact sound_of_selects fun h => selects_write (k := 13) (by decide) fun _ _ => decodeWrite_mbc3Romb (eq_of_beq h)
  · refine sound_of_selects fun h => selects_write (k := 13) (lo := 0x4000) (hi := 0x6000) (by decide) fun _ _ => ?_
    obtain ⟨hkind, hmode⟩ := Bool.and_eq_true _ _ ▸ h
    exact decodeWrite_mbc1Romhi (eq_of_beq hkind) (Bool.not_eq_true' _ ▸ hmode)
  · refine sound_of_selects fun h => selects_write (k := 13) (lo := 0x4000) (hi := 0x6000) (by decide) fun _ _ => ?_
    obtain ⟨hkind, hmode⟩ := Bool.and_eq_true _ _ ▸ h
    exact decodeWrite_mbc1Ramb (eq_of_beq hkind) hmode
  · exact sound_of_selects fun h => selects_mbc3Ramb (eq_of_beq h)
  · exact sound_of_selects fun h => (selects_mbc3Rtcsel (eq_of_beq h)).1
  · exact sound_of_selects fun h => (selects_mbc3Rtcsel (eq_of_beq h)).2
  · exact sound_of_selects fun h => selects_write (k := 13) (by decide) fun _ _ => decodeWrite_mbc1Mode (eq_of_beq h)
  · exact sound_of_selects fun h => selects_write (k := 13) (by decide) fun _ _ => decodeWrite_mbc3Latch (eq_of_beq h)

theorem writeRows_sound (hr : m.regs.wf = true) : ∀ q ∈ writeRows m.regs, SoundRow m w q := by
  simp only [writeRows, List.cons_append, List.nil_append, List.forall_mem_cons, List.not_mem_nil, false_imp_iff, implies_true,
    and_true]
  refine ⟨?_, ?_, ?_, ?_, ?_, ?_, ?_, ?_, ?_, ?_, ?_, ?_, ?_, ?_, ?_, ?_, ?_, ?_, ?_, ?_, ?_, ?_, ?_, sound_wmFlat⟩
  · exact sound_of_selects fun _ => selects_write (k := 13) (by decide) fun _ _ => decodeWrite_vram
  · exact sound_of_selects fun h => selects_write (k := 13) (by decide) fun _ _ => decodeWrite_eram (eq_of_beq h)
  · exact sound_of_selects fun h => selects_write (k := 13) (by decide) fun _ _ => decodeWrite_rtc (bne_iff_ne.mp h)
  · exact sound_of_selects fun h => selects_write (k := 12) (by decide) fun _ _ => decodeWrite_wramx (of_decide_eq_true h)
  · exact sound_wmSndReg hr 4 0xff10 0xff20 (by decide) (by decide)
  · exact sound_wmSndReg hr 2 0xff20 0xff24 (by decide) (by decide)
  · exact sound_wmSndReg hr 1 0xff24 0xff26 (by decide) (by decide)
  · exact sound_wmSndReg hr 0 0xff26 0xff27 (by decide) (by decide)
  · exact sound_of_selects fun _ => selects_write (k := 4) (by decide) fun _ _ => decodeWrite_sndWave hr
  · exact sound_register hr fun _ => decodeFlatStore_lcdc hr
  · exact sound_register hr fun _ => decodeFlatStore_stat hr
  · exact sound_register hr fun _ => decodeFlatStore_bgpi hr
  · exact sound_register hr fun _ => decodeFlatStore_bgpd hr
  · exact sound_register hr fun _ => decodeFlatStore_obpi hr
  · exact sound_register hr fun _ => decodeFlatStore_obpd hr
  · exact sound_register hr fun _ => decodeFlatStore_vbk hr
  · exact sound_register hr fun _ => decodeFlatStore_svbk hr
  · exact sound_register hr fun _ => decodeFlatStore_dma hr
  · exact sound_register hr fun _ => decodeFlatStore_hdma1 hr
  · exact sound_register hr fun _ => decodeFlatStore_hdma2 hr
  · exact sound_register hr fun _ => decodeFlatStore_hdma3 hr
  · exact sound_register hr fun _ => decodeFlatStore_hdma4 hr
  · exact sound_register hr fun _ => decodeFlatStore_hdma5 hr

theorem opcodeTable_sound (hr : m.regs.wf = true) (hq : q ∈ opcodeTable m.regs) : SoundRow m w q := by
  rw [opcodeTable, List.mem_append, List.mem_append] at hq
  obtain (hq | hq) | hq := hq
  · exact readRows_sound hr q hq
  · exact commandRows_sound q hq
  · exact writeRows_sound hr q hq

/-! ## Some row makes the decoded operation -/

/-- Some row of the table hits `w` and makes `i`. -/
def Made (m : Mode) (w : TWord) (i : Instr) : Prop := ∃ q ∈ opcodeTable m.regs, q.hits m w = true ∧ q.make w.addr w.data = i

variable {i : Instr}

/-- Row `n`, whose pattern is that of a window. -/
theorem made_window (n k lo hi : Nat) {write : Bool} (hq : (opcodeTable m.regs)[n]? = some q)
    (hp : (isWindowPattern q.mtch q.mask write k lo hi && isAddressMask q.mask k && decide (q.mtch.addr.toNat % 2 ^ k = 0) &&
      decide (q.mtch.data = 0)) = true)
    (hw : w.isWrite = write) (ha : lo ≤ w.addr.toNat ∧ w.addr.toNat < hi) (hc : q.cond m = true)
    (hi : q.make w.addr w.data = i) : Made m w i :=
  ⟨q, List.mem_of_getElem? hq, hits_iff.mpr ⟨isWindowPattern_matches hp hw ((within_iff _ _ _).mpr ha), hc⟩, hi⟩

/-- Row `n`, whose pattern also looks at the byte. -/
theorem made_secondary (n k lo hi : Nat) (hq : (opcodeTable m.regs)[n]? = some q)
    (hp : (isSecondaryPattern q.mtch q.mask k lo hi && q.mask.isWrite && q.mtch.isWrite && decide (q.mask.addr = 0xe000) &&
      decide (q.mtch.addr = 0x4000)) = true)
    (hw : w.isWrite = true) (ha : 0x4000 ≤ w.addr.toNat ∧ w.addr.toNat < 0x6000) (hv : lo ≤ w.data.toNat ∧ w.data.toNat < hi)
    (hc : q.cond m = true) (hi : q.make w.addr w.data = i) : Made m w i :=
  ⟨q, List.mem_of_getElem? hq,
    hits_iff.mpr ⟨isSecondaryPattern_matches hp hw ((within_iff _ _ _).mpr ha) hv.1 hv.2, hc⟩, hi⟩

theorem made_read_register (n : Nat) {a : Addr} {s : String} {p : Nat}
    (hq : (opcodeTable m.regs)[n]? = some ⟨s, readWord a, 0x1ffff00, always, p, fun _ _ => i⟩)
    (hw : w.isWrite = false) (ha : w.addr = a) : Made m w i :=
  ⟨_, List.mem_of_getElem? hq, hits_iff.mpr ⟨register_matches_read hw ha, rfl⟩, rfl⟩

theorem made_write_register (n : Nat) {a : Addr} {s : String} {p : Nat} {f : Byte → Instr}
    (hq : (opcodeTable m.regs)[n]? = some ⟨s, writeWord a 0, 0x1ffff00, always, p, fun _ v => f v⟩)
    (hw : w.isWrite = true) (ha : w.addr = a) : Made m w (f w.data) :=
  ⟨_, List.mem_of_getElem? hq, hits_iff.mpr ⟨register_matches_write hw ha, rfl⟩, rfl⟩

/-- The two sound windows take five read rows. -/
theorem made_rdSnd (hw : w.isWrite = false) (ha : inSoundWindows w.addr = true) : Made m w (.rdSnd w.addr) := by
  simp only [inSoundWindows, Bool.or_eq_true, within_iff] at ha
  by_cases h₁ : w.addr.toNat < 0xff20
  · exact made_window 5 4 0xff10 0xff20 rfl (by decide) hw (by omega) rfl rfl
  by_cases h₂ : w.addr.toNat < 0xff24
  · exact made_window 6 2 0xff20 0xff24 rfl (by decide) hw (by omega) rfl rfl
  by_cases h₃ : w.addr.toNat < 0xff26
  · exact made_window 7 1 0xff24 0xff26 rfl (by decide) hw (by omega) rfl rfl
  by_cases h₄ : w.addr.toNat < 0xff27
  · exact made_window 8 0 0xff26 0xff27 rfl (by decide) hw (by omega) rfl rfl
  · exact made_window 9 4 0xff30 0xff40 rfl (by decide) hw (by omega) rfl rfl

/-- The first sound window takes four write rows. -/
theorem made_wmSndReg (hw : w.isWrite = true) (ha : within 0xff10 0xff27 w.addr = true) : Made m w (.wmSndReg w.addr w.data) := by
  rw [within_iff] at ha
  by_cases h₁ : w.addr.toNat < 0xff20
  · exact made_window 32 4 0xff10 0xff20 rfl (by decide) hw (by omega) rfl rfl
  by_cases h₂ : w.addr.toNat < 0xff24
  · exact made_window 33 2 0xff20 0xff24 rfl (by decide) hw (by omega) rfl rfl
  by_cases h₃ : w.addr.toNat < 0xff26
  · exact made_window 34 1 0xff24 0xff26 rfl (by decide) hw (by omega) rfl rfl
  · exact made_window 35 0 0xff26 0xff27 rfl (by decide) hw (by omega) rfl rfl

/-- A well-formed read operation is made by a row at each of its words. -/
theorem made_read (hi : i.wf m = true) (hw : w.isWrite = false) (he : encode m i = readWord w.addr) : Made m w i := by
  have hdir : (encode m i).isWrite = false := by rw [he, readWord_isWrite]
  have haddr : w.addr = (encode m i).addr := by rw [he, readWord_addr]
  cases i <;> simp only [encode, writeWord_isWrite, readWord_addr, Bool.true_eq_false] at hdir haddr
  case rdSnd => subst haddr; exact made_rdSnd hw hi
  case rdLcdc => exact made_read_register 10 rfl hw haddr
  case rdStat => exact made_read_register 11 rfl hw haddr
  case rdBgpd => exact made_read_register 12 rfl hw haddr
  case rdObpd => exact made_read_register 13 rfl hw haddr
  case rdFlat => subst haddr; exact made_window 14 16 0 0x10000 rfl (by decide) hw ⟨Nat.zero_le _, w.addr.isLt⟩ rfl rfl
  all_goals
    subst haddr
    simp only [Instr.wf, Bool.and_eq_true, within_iff] at hi
  case rdRomx => exact made_window 0 14 0x4000 0x8000 rfl (by decide) hw hi rfl rfl
  case rdVram => exact made_window 1 13 0x8000 0xa000 rfl (by decide) hw hi rfl rfl
  case rdEram => exact made_window 2 13 0xa000 0xc000 rfl (by decide) hw hi.1 hi.2 rfl
  case rdRtc => exact made_window 3 13 0xa000 0xc000 rfl (by decide) hw hi.1 hi.2 rfl
  case rdWramx => exact made_window 4 12 0xd000 0xe000 rfl (by decide) hw hi.1 hi.2 rfl

/-- A well-formed write operation is made by a row at its word. -/
theorem made_write (hi : i.wf m = true) (hw : w.isWrite = true) (he : encode m i = w) : Made m w i := by
  have hdir : (encode m i).isWrite = true := by rw [he, hw]
  have haddr : w.addr = (encode m i).addr := by rw [he]
  have hdata : w.data = (encode m i).data := by rw [he]
  cases i <;> simp only [encode, readWord_isWrite, writeWord_addr, writeWord_data, Bool.false_eq_true] at hdir haddr hdata
  all_goals subst hdata
  case wmLcdc => exact made_write_register 37 rfl hw haddr
  case wmStat => exact made_write_register 38 rfl hw haddr
  case wmBgpi => exact made_write_register 39 rfl hw haddr
  case wmBgpd => exact made_write_register 40 rfl hw haddr
  case wmObpi => exact made_write_register 41 rfl hw haddr
  case wmObpd => exact made_write_register 42 rfl hw haddr
  case wmVbk => exact made_write_register 43 rfl hw haddr
  case wmSvbk => exact made_write_register 44 rfl hw haddr
  case wmDma => exact made_write_register 45 rfl hw haddr
  case wmHdma1 => exact made_write_register 46 rfl hw haddr
  case wmHdma2 => exact made_write_register 47 rfl hw haddr
  case wmHdma3 => exact made_write_register 48 rfl hw haddr
  case wmHdma4 => exact made_write_register 49 rfl hw haddr
  case wmHdma5 => exact made_write_register 50 rfl hw haddr
  all_goals subst haddr
  case wmSndReg => exact made_wmSndReg hw hi
  all_goals simp only [Instr.wf, Bool.and_eq_true, decide_eq_true_eq, within_iff, and_assoc] at hi
  case wcNopLow => exact made_window 15 13 0x0000 0x2000 rfl (by decide) hw hi rfl rfl
  case wcNopKind =>
    obtain ⟨hlo, hhi, hkind⟩ := hi
    by_cases h : w.addr.toNat < 0x4000
    · exact made_window 16 13 0x2000 0x4000 rfl (by decide) hw ⟨hlo, h⟩ hkind rfl
    · exact made_window 17 14 0x4000 0x8000 rfl (by decide) hw ⟨by omega, hhi⟩ hkind rfl
  case wcMbc1Romb => obtain ⟨hlo, hhi, hc⟩ := hi; exact made_window 18 13 0x2000 0x4000 rfl (by decide) hw ⟨hlo, hhi⟩ hc rfl
  case wcMbc3Romb => obtain ⟨hlo, hhi, hc⟩ := hi; exact made_window 19 13 0x2000 0x4000 rfl (by decide) hw ⟨hlo, hhi⟩ hc rfl
  case wcMbc1Romhi =>
    obtain ⟨hlo, hhi, hkind, hmode⟩ := hi
    exact made_window 20 13 0x4000 0x6000 rfl (by decide) hw ⟨hlo, hhi⟩ (Bool.and_eq_true_iff.mpr ⟨hkind, hmode⟩) rfl
  case wcMbc1Ramb =>
    obtain ⟨hlo, hhi, hkind, hmode⟩ := hi
    exact made_window 21 13 0x4000 0x6000 rfl (by decide) hw ⟨hlo, hhi⟩ (Bool.and_eq_true_iff.mpr ⟨hkind, hmode⟩) rfl
  case wcMbc3Ramb =>
    obtain ⟨hlo, hhi, hkind, hv⟩ := hi
    exact made_secondary 22 3 0x00 0x08 rfl (by decide) hw ⟨hlo, hhi⟩ ⟨Nat.zero_le _, by omega⟩ hkind rfl
  case wcMbc3Rtcsel =>
    obtain ⟨hlo, hhi, hkind, hvlo, hvhi⟩ := hi
    by_cases h : w.data.toNat < 0x0c
    · exact made_secondary 23 2 0x08 0x0c rfl (by decide) hw ⟨hlo, hhi⟩ ⟨hvlo, h⟩ hkind rfl
    · exact made_secondary 24 0 0x0c 0x0d rfl (by decide) hw ⟨hlo, hhi⟩ ⟨by omega, by omega⟩ hkind rfl
  case wcMbc3Secign =>
    obtain ⟨hlo, hhi, hkind, -⟩ := hi
    exact made_window 25 13 0x4000 0x6000 rfl (by decide) hw ⟨hlo, hhi⟩ hkind rfl
  case wcMbc1Mode => obtain ⟨hlo, hhi, hc⟩ := hi; exact made_window 26 13 0x6000 0x8000 rfl (by decide) hw ⟨hlo, hhi⟩ hc rfl
  case wcMbc3Latch => obtain ⟨hlo, hhi, hc⟩ := hi; exact made_window 27 13 0x6000 0x8000 rfl (by decide) hw ⟨hlo, hhi⟩ hc rfl
  case wmVram => exact made_window 28 13 0x8000 0xa000 rfl (by decide) hw hi rfl rfl
  case wmEram => obtain ⟨hlo, hhi, hc⟩ := hi; exact made_window 29 13 0xa000 0xc000 rfl (by decide) hw ⟨hlo, hhi⟩ hc rfl
  case wmRtc => obtain ⟨hlo, hhi, hc⟩ := hi; exact made_window 30 13 0xa000 0xc000 rfl (by decide) hw ⟨hlo, hhi⟩ hc rfl
  case wmWramx => obtain ⟨hlo, hhi, hc⟩ := hi; exact made_window 31 12 0xd000 0xe000 rfl (by decide) hw ⟨hlo, hhi⟩ hc rfl
  case wmSndWave => exact made_window 36 4 0xff30 0xff40 rfl (by decide) hw hi rfl rfl
  case wmFlat =>
    obtain ⟨hlo, -⟩ := hi
    exact made_window 51 15 0x8000 0x10000 rfl (by decide) hw ⟨by omega, w.addr.isLt⟩ rfl rfl

theorem decode_made (hr : m.regs.wf = true) (w : TWord) : Made m w (decode m w) := by
  have he := encode_decode hr w
  cases hw : w.isWrite with
  | false => exact made_read (decode_wf hr w) hw (by rw [he, hw]; rfl)
  | true => exact made_write (decode_wf hr w) hw (by rw [he, hw]; rfl)

/-! ## Two rows of one operation have no word in common -/

/-- The rows make different operations, or no word matches both patterns: `mtch` of each, cut to the other's mask, differs. -/
def rowsApart (p q : Row) : Bool :=
  (p.make 0 0).ctorIdx != (q.make 0 0).ctorIdx || (p.mtch &&& q.mask) != (q.mtch &&& p.mask)

/-- Checked by evaluation: no pattern that the check looks at contains a named register, whose operations have one row each. -/
theorem opcodeTable_apart (r : AddrMap) : (opcodeTable r).Pairwise fun p q => rowsApart p q = true := of_decide_eq_true rfl

theorem rowsApart_symm : Std.Symm fun p q => rowsApart p q = true where
  symm p q h := by
    simp only [rowsApart, Bool.or_eq_true, bne_iff_ne] at h ⊢
    exact h.imp Ne.symm Ne.symm

theorem not_rowsApart_of_hits (hidx : (p.make 0 0).ctorIdx = (q.make 0 0).ctorIdx) (hp : p.hits m w = true) (hq : q.hits m w = true) :
    ¬ rowsApart p q = true := by
  obtain ⟨hpw, -⟩ := hits_iff.mp hp
  obtain ⟨hqw, -⟩ := hits_iff.mp hq
  have hcut : (p.mtch &&& q.mask) = (q.mtch &&& p.mask) := by
    rw [← hpw, ← hqw, BitVec.and_assoc, BitVec.and_assoc, BitVec.and_comm p.mask]
  simp only [rowsApart, hidx, hcut, bne_self_eq_false, Bool.or_self, Bool.false_eq_true, not_false_eq_true]

/-! ## The selection -/

/-- A list whose elements are all one element, which is not in the relation to itself that holds of any two of them. -/
theorem eq_singleton_of_pairwise {α : Type} {R : α → α → Prop} {l : List α} {x : α} (hl : l.Pairwise R) (hx : ¬ R x x)
    (hmem : x ∈ l) (hall : ∀ y ∈ l, y = x) : l = [x] := by
  match l with
  | [] => cases hmem
  | [y] => rw [hall y (by simp)]
  | y :: z :: _ =>
    obtain rfl := hall y (by simp)
    obtain rfl := hall z (by simp)
    exact absurd (List.rel_of_pairwise_cons hl (by simp)) hx

theorem tableSelect_eq_singleton (hr : m.regs.wf = true) (w : TWord) :
    ∃ q, tableSelect m w = [q] ∧ q.make w.addr w.data = decode m w := by
  have := rowsApart_symm
  obtain ⟨q, hq, hit, hmake⟩ := decode_made hr w
  have hprio : q.prio = prioOf (decode m w) := hmake ▸ (opcodeTable_uniform q hq _ _).2
  -- a row that hits, and not after `q`, makes the decoded operation as `q` does, so it is `q`
  have hsame : ∀ p ∈ opcodeTable m.regs, p.hits m w = true → p.prio ≤ q.prio → p = q := by
    intro p hp hpit hle
    have hpmake : p.make w.addr w.data = q.make w.addr w.data := by
      rcases opcodeTable_sound hr hp hpit with h | h
      · rw [h, hmake]
      · omega
    have hidx : (p.make 0 0).ctorIdx = (q.make 0 0).ctorIdx := by
      rw [← (opcodeTable_uniform p hp w.addr w.data).1, hpmake, (opcodeTable_uniform q hq w.addr w.data).1]
    by_contra hne
    exact not_rowsApart_of_hits hidx hpit hit ((opcodeTable_apart m.regs).forall hp hq hne)
  have hlowest : ∀ p ∈ opcodeTable m.regs, p.hits m w = true → q.prio ≤ p.prio := fun p hp hpit => by
    by_contra hlt
    have := hsame p hp hpit (by omega)
    subst this
    omega
  refine ⟨q, eq_singleton_of_pairwise (((opcodeTable_apart m.regs).filter _).filter _) (not_rowsApart_of_hits rfl hit hit) ?_ ?_, hmake⟩
  · simp only [tableSelect, List.mem_filter, List.all_eq_true, decide_eq_true_eq, and_imp]
    exact ⟨⟨hq, hit⟩, hlowest⟩
  · simp only [tableSelect, List.mem_filter, List.all_eq_true, decide_eq_true_eq, and_imp]
    exact fun p hp hpit hle => hsame p hp hpit (hle q hq hit)

/-- Settles O4: of the rows that hit, the one that makes the decoded operation is alone in the lowest priority. -/
theorem tableSelectsExactlyOneRow : Obligations.TableSelectsExactlyOneRow := by
  intro m w hr
  obtain ⟨q, hselect, hmake⟩ := tableSelect_eq_singleton hr w
  exact ⟨rfl, by rw [hselect, List.map_singleton, hmake]⟩

/-- Settles O1: closed words in closed modes, so the decoder is evaluated. -/
theorem decodesPublishedWords : Obligations.DecodesPublishedWords := by
  unfold Obligations.DecodesPublishedWords
  decide

end Sys2Proof.Machine
end

section
/-! PROOF. What one step does and does not do (spec 10_state.md, 60_exceptions.md, 70_reset_and_hazards.md): how a step begins and stops,
the ROM pointer and the cycle counter, the fixed cells, the faults, and the legality of every state that a run reaches. -/
namespace Sys2Proof.Machine
open Claims (issued limits)

variable {i : Instr} {s t u : State} {a : Addr} {v : Byte} {f : Fault}

/-! ## One step -/

/-- Settles O5: the step takes the word and nothing else is added around `exec`. -/
theorem stepRunsTheDecodedTransaction : Obligations.StepRunsTheDecodedTransaction :=
  fun _ _ _ ⟨hf, hi⟩ => step_transaction hf hi

/-- Without a fault on record a step has a next state, whatever it takes. -/
theorem step_next (hf : s.fault = none) : ∃ t, step s = .next t := by
  rcases hi : s.inputs with _ | ⟨w | e, rest⟩
  · exact ⟨_, step_idle hf hi⟩
  · obtain ⟨t, ht⟩ := exec_next (decode s.mode w) (s.setInputs rest)
    exact ⟨t, (step_transaction hf hi).trans ht⟩
  · exact ⟨_, step_env hf hi⟩

/-- Settles O7: a recorded fault is what the step answers, and without one it answers a next state. -/
theorem recordedFaultStopsTheMachine : Obligations.RecordedFaultStopsTheMachine := by
  intro s
  cases hf : s.fault with
  | some g => simp [step_of_fault hf]
  | none =>
    obtain ⟨t, ht⟩ := step_next hf
    simp [ht]

/-- Settles O19: D4's list is what `applyEnv` can change; the counter only grows by what the host adds. -/
theorem environmentChangesOnlySharedState : Obligations.EnvironmentChangesOnlySharedState := by
  refine ⟨fun s e rest hf hi => ⟨_, step_env hf hi, ?_, applyEnv_frame (s.setInputs rest) e⟩, fun s hf hi => step_idle hf hi⟩
  cases e with
  | cycles n => exact Nat.le_add_right s.cycles n
  | _ => exact Nat.le_refl s.cycles

/-- Settles O12: the reset record itself. -/
theorem resetRegisters : Obligations.ResetRegisters := by
  unfold Obligations.ResetRegisters
  decide

/-! ## What a transfer leaves -/

/-- `t` has the configuration, the pointers, the cycle counter and the fault record of `s`. -/
structure SameRegisters (s t : State) : Prop where
  cfg      : t.cfg = s.cfg
  romBank  : t.romBank = s.romBank
  ramBank  : t.ramBank = s.ramBank
  bankMode : t.bankMode = s.bankMode
  rtcSel   : t.rtcSel = s.rtcSel
  wramBank : t.wramBank = s.wramBank
  vramBank : t.vramBank = s.vramBank
  cycles   : t.cycles = s.cycles
  fault    : t.fault = s.fault

theorem sameRegisters_of_frame {flat vram eram wram : Memory} {rtc : List ClockCall}
    (h : t = { s with flat := flat, vram := vram, eram := eram, wram := wram, rtc := rtc }) : SameRegisters s t := by
  subst h
  exact ⟨rfl, rfl, rfl, rfl, rfl, rfl, rfl, rfl, rfl⟩

theorem copyBytes_ok_sameRegisters {n : Nat} {src dst : Addr} (h : copyBytes n src dst s = .ok t) : SameRegisters s t :=
  sameRegisters_of_frame (copyBytes_frame.1 t h)

theorem copyBytes_error_sameRegisters {n : Nat} {src dst : Addr} (h : copyBytes n src dst s = .error (f, t)) :
    SameRegisters s t :=
  sameRegisters_of_frame (copyBytes_frame.2 f t h)

/-! ## The ROM pointer and the cycle counter -/

/-- The three operations that attempt a bank switch (R152). -/
def switchesRomBank : Instr → Bool
  | .wcMbc1Romb _ _ | .wcMbc3Romb _ _ | .wcMbc1Romhi _ _ => true
  | _ => false

theorem switchesRomBank_iff : switchesRomBank i = true ↔ ∃ a v, i = .wcMbc1Romb a v ∨ i = .wcMbc3Romb a v ∨ i = .wcMbc1Romhi a v := by
  cases i <;> simp [switchesRomBank]

/-- The ROM pointer moves in a bank switch only, and the cycle counter in an object-memory DMA only. -/
structure KeepsCounters (i : Instr) (s t : State) : Prop where
  romBank : switchesRomBank i = false → t.romBank = s.romBank
  cycles  : (∀ v, i ≠ .wmDma v) → t.cycles = s.cycles

theorem keepsCounters_of_eq (hrom : t.romBank = s.romBank) (hcycles : t.cycles = s.cycles) : KeepsCounters i s t :=
  ⟨fun _ => hrom, fun _ => hcycles⟩

theorem answer_keepsCounters {r : Except Fault Byte} (h : answer s r = .next t) : KeepsCounters i s t := by
  obtain ⟨b, -, rfl⟩ | ⟨f, -, rfl⟩ := answer_cases h <;> exact keepsCounters_of_eq rfl rfl

theorem answer_ok_keepsCounters {b : Byte} (h : answer s (.ok b) = .next t) : KeepsCounters i s t := answer_keepsCounters h

theorem finish_keepsCounters {r : Except Fault State} (h : finish s r = .next t)
    (hr : ∀ u, r = .ok u → KeepsCounters i s u) : KeepsCounters i s t := by
  obtain ⟨u, hu, rfl⟩ | ⟨f, -, rfl⟩ := finish_cases h
  · exact ⟨(hr u hu).romBank, (hr u hu).cycles⟩
  · exact keepsCounters_of_eq rfl rfl

theorem finish_ok_keepsCounters (h : finish s (.ok u) = .next t) (hrom : u.romBank = s.romBank) (hcycles : u.cycles = s.cycles) :
    KeepsCounters i s t :=
  finish_keepsCounters h fun _ e => Except.ok.inj e ▸ keepsCounters_of_eq hrom hcycles

theorem bankSwitch_keepsCounters {c : BitVec 7} (hi : switchesRomBank i = true) (h : bankSwitch s c = .ok u) :
    KeepsCounters i s u := by
  refine ⟨fun hn => absurd hi (by simp [hn]), fun _ => ?_⟩
  obtain rfl | ⟨limit, -, -, -, rfl⟩ := bankSwitch_cases h <;> rfl

theorem storeEram_keepsCounters (h : storeEram s a v = .ok u) : KeepsCounters i s u := by
  unfold storeEram at h
  split at h
  · exact Except.ok.inj h ▸ keepsCounters_of_eq rfl rfl
  · cases h

theorem execWcMbc1Mode_keepsCounters (a : Addr) (h : execWcMbc1Mode a v s = .next t) : KeepsCounters i s t := by
  unfold execWcMbc1Mode at h
  split at h <;> exact finish_ok_keepsCounters h rfl rfl

theorem execWmDma_romBank (h : execWmDma v s = .next t) : t.romBank = s.romBank := by
  obtain ⟨u, hu, rfl⟩ | ⟨f, u, hu, rfl⟩ := execWmDma_cases h
  · exact (copyBytes_ok_sameRegisters hu).romBank
  · exact (copyBytes_error_sameRegisters hu).romBank

theorem execWmHdma5_keepsCounters (h : execWmHdma5 v s = .next t) : KeepsCounters i s t := by
  obtain ⟨-, rfl⟩ | ⟨-, ⟨u, hu, rfl⟩ | ⟨f, u, hu, rfl⟩⟩ := execWmHdma5_cases h
  · exact keepsCounters_of_eq rfl rfl
  · exact keepsCounters_of_eq (copyBytes_ok_sameRegisters hu).romBank (copyBytes_ok_sameRegisters hu).cycles
  · exact keepsCounters_of_eq (copyBytes_error_sameRegisters hu).romBank (copyBytes_error_sameRegisters hu).cycles

theorem exec_keepsCounters (h : exec i s = .next t) : KeepsCounters i s t := by
  cases i with
  | rdRomx | rdEram => exact answer_keepsCounters h
  | rdVram | rdRtc | rdWramx | rdSnd | rdLcdc | rdStat | rdBgpd | rdObpd | rdFlat => exact answer_ok_keepsCounters h
  | wcMbc1Romb | wcMbc3Romb | wcMbc1Romhi => exact finish_keepsCounters h fun _ => bankSwitch_keepsCounters rfl
  | wmEram => exact finish_keepsCounters h fun _ => storeEram_keepsCounters
  | wcMbc1Mode a => exact execWcMbc1Mode_keepsCounters a h
  | wmDma => exact ⟨fun _ => execWmDma_romBank h, fun hn => absurd rfl (hn _)⟩
  | wmHdma5 => exact execWmHdma5_keepsCounters h
  | wcMbc3Latch | wmVbk | wmSvbk => exact finish_ok_keepsCounters h (by split <;> rfl) (by split <;> rfl)
  | wcNopLow | wcNopKind | wcMbc1Ramb | wcMbc3Ramb | wcMbc3Rtcsel | wcMbc3Secign | wmVram | wmRtc | wmWramx
  | wmSndReg | wmSndWave | wmLcdc | wmStat | wmBgpi | wmBgpd | wmObpi | wmObpd | wmHdma1 | wmHdma2 | wmHdma3 | wmHdma4
  | wmFlat => exact finish_ok_keepsCounters h rfl rfl

/-- The list of R153 is the model's limit of a class. -/
theorem limits_getElem? (c : Nat) : limits[c]? = romLimit c := by
  match c with
  | 0 | 1 | 2 | 3 | 4 | 5 | 6 => rfl
  | _ + 7 => rfl

theorem romLimit_eq_none {c : Nat} (h : romLimit c = none) : 6 < c := by
  by_contra hle
  interval_cases c <;> cases h

theorem exec_switchesRomBank (hi : switchesRomBank i = true) : ∃ c, exec i s = finish s (bankSwitch s c) := by
  cases i with
  | wcMbc1Romb | wcMbc3Romb | wcMbc1Romhi => exact ⟨_, rfl⟩
  | _ => cases hi

/-- Settles O17: of all operations only a bank switch moves the pointer, and it takes only a candidate below the limit. -/
theorem onlyBankSwitchMovesTheRomPointer : Obligations.OnlyBankSwitchMovesTheRomPointer := by
  intro s t i h hmoved
  have hi : switchesRomBank i = true := by
    by_contra hn
    exact hmoved ((exec_keepsCounters h).romBank (Bool.not_eq_true _ ▸ hn))
  refine ⟨switchesRomBank_iff.mp hi, ?_⟩
  obtain ⟨c, hexec⟩ := exec_switchesRomBank (s := s) hi
  obtain ⟨u, hu, rfl⟩ | ⟨f, -, rfl⟩ := finish_cases (hexec.symm.trans h)
  · obtain rfl | ⟨limit, hlimit, hclass, hlt, rfl⟩ := bankSwitch_cases hu
    · exact absurd rfl hmoved
    · exact ⟨limit, (limits_getElem? _).trans hlimit, hclass, hlt⟩
  · exact absurd rfl hmoved

theorem execWmDma_cycles (hf : s.fault = none) (h : execWmDma v s = .next t) :
    t.cycles = s.cycles + if t.fault = none then 150 else 0 := by
  obtain ⟨u, hu, rfl⟩ | ⟨f, u, hu, rfl⟩ := execWmDma_cases h
  · have hsame := copyBytes_ok_sameRegisters hu
    have hfault : u.fault = none := hsame.fault.trans hf
    change u.cycles + 150 = s.cycles + if u.fault = none then 150 else 0
    rw [if_pos hfault, hsame.cycles, State.putFlat_cycles]
  · exact (copyBytes_error_sameRegisters hu).cycles

/-- The words of `WM.DMA` are the writes to its register. -/
theorem decode_eq_wmDma_iff {m : Mode} {w : TWord} (hr : m.regs.wf = true) :
    (∃ v, decode m w = .wmDma v) ↔ w.isWrite = true ∧ w.addr = m.regs.dma := by
  constructor
  · rintro ⟨v, hv⟩
    have he := encode_decode hr w
    rw [hv] at he
    cases hw : w.isWrite with
    | false => rw [hw] at he; simpa [encode] using congrArg TWord.isWrite he
    | true => rw [hw] at he; simpa [encode] using (congrArg TWord.addr he).symm
  · rintro ⟨hw, ha⟩
    exact ⟨w.data, by rw [decode_write hw, ha, decodeWrite_register_row hr (decodeFlatStore_dma hr)]⟩

/-- Settles O18: only `WM.DMA` touches the counter, and adds its 150 cycles exactly when it ends without a fault. -/
theorem onlyObjectMemoryDmaCostsCycles : Obligations.OnlyObjectMemoryDmaCostsCycles := by
  intro s t w rest hr ⟨hf, hi⟩ h
  rw [step_transaction hf hi] at h
  by_cases hdma : w.isWrite = true ∧ w.addr = s.cfg.regs.dma
  · obtain ⟨v, hv⟩ := (decode_eq_wmDma_iff (m := s.mode) hr).mpr hdma
    rw [hv] at h
    simpa [hdma] using execWmDma_cycles (s := s.setInputs rest) hf h
  · rw [if_neg fun hc => hdma ⟨hc.1, hc.2.1⟩]
    exact (exec_keepsCounters h).cycles fun v hv => hdma ((decode_eq_wmDma_iff (m := s.mode) hr).mp ⟨v, hv⟩)

/-! ## The fixed cells -/

/-- `t` has the ROM of `s`, and its flat cells below 0xc000. -/
structure KeepsFixedCells (s t : State) : Prop where
  rom  : t.rom = s.rom
  flat : ∀ k, k < 0xc000 → Memory.read t.flat k = Memory.read s.flat k

theorem keepsFixedCells_of_eq (hrom : t.rom = s.rom) (hflat : t.flat = s.flat) : KeepsFixedCells s t :=
  ⟨hrom, fun _ _ => by rw [hflat]⟩

theorem KeepsFixedCells.trans (hu : KeepsFixedCells s t) (ht : KeepsFixedCells t u) : KeepsFixedCells s u :=
  ⟨ht.rom.trans hu.rom, fun k hk => (ht.flat k hk).trans (hu.flat k hk)⟩

theorem keepsFixedCells_of_flat_write (ha : 0xc000 ≤ a.toNat) (hrom : t.rom = s.rom)
    (hflat : t.flat = Memory.write s.flat a.toNat v) : KeepsFixedCells s t :=
  ⟨hrom, fun k hk => by rw [hflat, Memory.read_write_other _ v (by omega)]⟩

theorem register_high {r : AddrMap} (hr : r.wf = true) (ha : a ∈ r.toList) : 0xc000 ≤ a.toNat := by
  have := AddrMap.wf_bounds hr ha
  omega

theorem answer_keepsFixedCells {r : Except Fault Byte} (h : answer s r = .next t) : KeepsFixedCells s t := by
  obtain ⟨b, -, rfl⟩ | ⟨f, -, rfl⟩ := answer_cases h <;> exact keepsFixedCells_of_eq rfl rfl

theorem answer_ok_keepsFixedCells {b : Byte} (h : answer s (.ok b) = .next t) : KeepsFixedCells s t := answer_keepsFixedCells h

theorem finish_keepsFixedCells {r : Except Fault State} (h : finish s r = .next t)
    (hr : ∀ u, r = .ok u → KeepsFixedCells s u) : KeepsFixedCells s t := by
  obtain ⟨u, hu, rfl⟩ | ⟨f, -, rfl⟩ := finish_cases h
  · exact (hr u hu).trans (keepsFixedCells_of_eq rfl rfl)
  · exact keepsFixedCells_of_eq rfl rfl

theorem finish_ok_keepsFixedCells (h : finish s (.ok u) = .next t) (hu : KeepsFixedCells s u) : KeepsFixedCells s t :=
  finish_keepsFixedCells h fun _ e => Except.ok.inj e ▸ hu

/-- A store to a named register and its side effect, which touches neither array. -/
theorem finish_register_keepsFixedCells (hr : s.cfg.regs.wf = true) (h : finish s (.ok u) = .next t) (hrom : u.rom = s.rom)
    (hflat : u.flat = Memory.write s.flat a.toNat v) (ha : a ∈ s.cfg.regs.toList := by simp [AddrMap.toList]) :
    KeepsFixedCells s t :=
  finish_ok_keepsFixedCells h (keepsFixedCells_of_flat_write (register_high hr ha) hrom hflat)

theorem storeByte_keepsFixedCells (h : storeByte s a v = .ok t) : KeepsFixedCells s t := by
  obtain ⟨-, rfl⟩ | ⟨-, rfl⟩ | ⟨-, -, rfl⟩ | ⟨-, -, -, rfl⟩ | ⟨-, -, rfl⟩ | ⟨ha, rfl⟩ := storeByte_cases h
  · exact keepsFixedCells_of_eq rfl rfl
  · exact keepsFixedCells_of_eq rfl rfl
  · exact keepsFixedCells_of_eq rfl rfl
  · exact keepsFixedCells_of_eq rfl rfl
  · exact keepsFixedCells_of_eq rfl rfl
  · exact keepsFixedCells_of_flat_write ha rfl rfl

theorem copyBytes_keepsFixedCells {n : Nat} {src dst : Addr} (hs : KeepsFixedCells u s) :
    (∀ t, copyBytes n src dst s = .ok t → KeepsFixedCells u t) ∧
    (∀ f t, copyBytes n src dst s = .error (f, t) → KeepsFixedCells u t) :=
  copyBytes_induction hs fun _ _ _ _ hv ht => hv.trans (storeByte_keepsFixedCells ht)

theorem bankSwitch_keepsFixedCells {c : BitVec 7} (h : bankSwitch s c = .ok u) : KeepsFixedCells s u := by
  obtain rfl | ⟨limit, -, -, -, rfl⟩ := bankSwitch_cases h <;> exact keepsFixedCells_of_eq rfl rfl

theorem storeEram_keepsFixedCells (h : storeEram s a v = .ok u) : KeepsFixedCells s u := by
  unfold storeEram at h
  split at h
  · exact Except.ok.inj h ▸ keepsFixedCells_of_eq rfl rfl
  · cases h

theorem execWcMbc1Mode_keepsFixedCells (a : Addr) (h : execWcMbc1Mode a v s = .next t) : KeepsFixedCells s t := by
  unfold execWcMbc1Mode at h
  split at h <;> exact finish_ok_keepsFixedCells h (keepsFixedCells_of_eq rfl rfl)

theorem putFlat_register_keepsFixedCells (hr : s.cfg.regs.wf = true) (ha : a ∈ s.cfg.regs.toList) :
    KeepsFixedCells s (s.putFlat a v) :=
  keepsFixedCells_of_flat_write (register_high hr ha) rfl rfl

theorem execWmDma_keepsFixedCells (hr : s.cfg.regs.wf = true) (h : execWmDma v s = .next t) : KeepsFixedCells s t := by
  have hput := putFlat_register_keepsFixedCells (v := v) hr (show s.cfg.regs.dma ∈ s.cfg.regs.toList by simp [AddrMap.toList])
  obtain ⟨u, hu, rfl⟩ | ⟨f, u, hu, rfl⟩ := execWmDma_cases h
  · exact ((copyBytes_keepsFixedCells hput).1 u hu).trans (keepsFixedCells_of_eq rfl rfl)
  · exact ((copyBytes_keepsFixedCells hput).2 f u hu).trans (keepsFixedCells_of_eq rfl rfl)

theorem execWmHdma5_keepsFixedCells (hr : s.cfg.regs.wf = true) (h : execWmHdma5 v s = .next t) : KeepsFixedCells s t := by
  have ha : s.cfg.regs.hdma5 ∈ s.cfg.regs.toList := by simp [AddrMap.toList]
  have hput := putFlat_register_keepsFixedCells (v := v) hr ha
  obtain ⟨-, rfl⟩ | ⟨-, ⟨u, hu, rfl⟩ | ⟨f, u, hu, rfl⟩⟩ := execWmHdma5_cases h
  · exact hput.trans (keepsFixedCells_of_eq rfl rfl)
  · have hsentinel : KeepsFixedCells u (u.putFlat s.cfg.regs.hdma5 0xff).complete :=
      keepsFixedCells_of_flat_write (v := 0xff) (register_high hr ha) rfl rfl
    exact ((copyBytes_keepsFixedCells hput).1 u hu).trans hsentinel
  · exact ((copyBytes_keepsFixedCells hput).2 f u hu).trans (keepsFixedCells_of_eq rfl rfl)

/-- R51 for one operation that is well formed in the mode: every flat store lies at or above 0xc000. -/
theorem exec_keepsFixedCells (hr : s.cfg.regs.wf = true) (hi : i.wf s.mode = true) (h : exec i s = .next t) :
    KeepsFixedCells s t := by
  cases i with
  | rdRomx | rdEram => exact answer_keepsFixedCells h
  | rdVram | rdRtc | rdWramx | rdSnd | rdLcdc | rdStat | rdBgpd | rdObpd | rdFlat => exact answer_ok_keepsFixedCells h
  | wcMbc1Romb | wcMbc3Romb | wcMbc1Romhi => exact finish_keepsFixedCells h fun _ => bankSwitch_keepsFixedCells
  | wmEram => exact finish_keepsFixedCells h fun _ => storeEram_keepsFixedCells
  | wcMbc1Mode a => exact execWcMbc1Mode_keepsFixedCells a h
  | wcMbc3Latch => exact finish_ok_keepsFixedCells h (keepsFixedCells_of_eq (by split <;> rfl) (by split <;> rfl))
  | wmDma => exact execWmDma_keepsFixedCells hr h
  | wmHdma5 => exact execWmHdma5_keepsFixedCells hr h
  | wmVbk => exact finish_register_keepsFixedCells (a := s.cfg.regs.vbk) hr h (by split <;> rfl) (by split <;> rfl)
  | wmSvbk => exact finish_register_keepsFixedCells (a := s.cfg.regs.svbk) hr h (by split <;> rfl) (by split <;> rfl)
  | wmLcdc => exact finish_register_keepsFixedCells (a := s.cfg.regs.lcdc) hr h rfl rfl
  | wmStat => exact finish_register_keepsFixedCells (a := s.cfg.regs.stat) hr h rfl rfl
  | wmBgpi => exact finish_register_keepsFixedCells (a := s.cfg.regs.bgpi) hr h rfl rfl
  | wmBgpd => exact finish_register_keepsFixedCells (a := s.cfg.regs.bgpd) hr h rfl rfl
  | wmObpi => exact finish_register_keepsFixedCells (a := s.cfg.regs.obpi) hr h rfl rfl
  | wmObpd => exact finish_register_keepsFixedCells (a := s.cfg.regs.obpd) hr h rfl rfl
  | wmHdma1 => exact finish_register_keepsFixedCells (a := s.cfg.regs.hdma1) hr h rfl rfl
  | wmHdma2 => exact finish_register_keepsFixedCells (a := s.cfg.regs.hdma2) hr h rfl rfl
  | wmHdma3 => exact finish_register_keepsFixedCells (a := s.cfg.regs.hdma3) hr h rfl rfl
  | wmHdma4 => exact finish_register_keepsFixedCells (a := s.cfg.regs.hdma4) hr h rfl rfl
  | wmSndReg | wmSndWave =>
    obtain ⟨hlo, -⟩ := (within_iff _ _ _).mp hi
    exact finish_ok_keepsFixedCells h (keepsFixedCells_of_flat_write (by omega) rfl rfl)
  | wmFlat =>
    simp only [Instr.wf, Bool.and_eq_true, decide_eq_true_eq, and_assoc] at hi
    exact finish_ok_keepsFixedCells h (keepsFixedCells_of_flat_write hi.1 rfl rfl)
  | wcNopLow | wcNopKind | wcMbc1Ramb | wcMbc3Ramb | wcMbc3Rtcsel | wcMbc3Secign | wmVram | wmRtc | wmWramx =>
    exact finish_ok_keepsFixedCells h (keepsFixedCells_of_eq rfl rfl)

theorem step_keepsFixedCells (hr : s.cfg.regs.wf = true) (h : step s = .next t) : KeepsFixedCells s t := by
  obtain ⟨-, ⟨-, rfl⟩ | ⟨w, rest, -, hexec⟩ | ⟨e, rest, -, rfl⟩⟩ := step_cases h
  · exact keepsFixedCells_of_eq rfl rfl
  · have hi : (decode s.mode w).wf s.mode = true := decode_wf hr w
    obtain ⟨hrom, hflat⟩ := exec_keepsFixedCells (s := s.setInputs rest) hr hi hexec
    exact ⟨hrom, hflat⟩
  · rw [applyEnv_frame]
    exact keepsFixedCells_of_eq rfl rfl

/-- Settles O14: no operation writes `rom`, and no flat store is made below 0xc000. -/
theorem romAndFixedCellsNeverChange : Obligations.RomAndFixedCellsNeverChange := by
  intro s t hr h
  obtain ⟨hrom, hflat⟩ := step_keepsFixedCells hr h
  exact ⟨hrom, hflat⟩

theorem KeepsFixedCells.fixedBankLoaded (h : KeepsFixedCells s t) (hs : s.FixedBankLoaded) : t.FixedBankLoaded := by
  intro k hk
  rw [h.flat k (by omega), h.rom, hs k hk]

/-- Settles O57: the premise is about cells that no step changes, and a read below 0x4000 is always plain. -/
theorem fixedBankPremiseIsKept : Obligations.FixedBankPremiseIsKept := by
  refine ⟨fun _ _ => rfl, fun s hr hs => ⟨fun t h => (step_keepsFixedCells hr h).fixedBankLoaded hs, fun a ha => ?_⟩⟩
  rw [decode_readWord, decodeRead_flat (rdFlat_wf_fixed hr ha), ← hs a.toNat ha]
  rfl

end Sys2Proof.Machine
end

section
/-! PROOF. Which operations raise a fault (spec 60_exceptions.md), that every step from a legal state leads to a legal state (10_state.md
section 6), and so that a well-formed configuration never faults (70_reset_and_hazards.md section 2). -/
namespace Sys2Proof.Machine

variable {i : Instr} {s t u : State} {a : Addr} {v : Byte} {f : Fault}

/-! ## Where a fault comes from -/

theorem answer_fault {r : Except Fault Byte} (hs : s.fault = none) (h : answer s r = .next t) (ht : t.fault = some f) :
    r = .error f ∧ t = s.raise f := by
  obtain ⟨b, -, rfl⟩ | ⟨g, hg, rfl⟩ := answer_cases h
  · rw [State.respond_fault, hs] at ht; cases ht
  · obtain rfl : g = f := Option.some.inj ht
    exact ⟨hg, rfl⟩

theorem answer_ok_fault {b : Byte} (hs : s.fault = none) (h : answer s (.ok b) = .next t) : t.fault ≠ some f := fun ht =>
  nomatch (answer_fault hs h ht).1

theorem finish_fault {r : Except Fault State} (hs : s.fault = none) (hr : ∀ u, r = .ok u → u.fault = s.fault)
    (h : finish s r = .next t) (ht : t.fault = some f) : r = .error f ∧ t = s.raise f := by
  obtain ⟨u, hu, rfl⟩ | ⟨g, hg, rfl⟩ := finish_cases h
  · rw [State.complete_fault, hr u hu, hs] at ht; cases ht
  · obtain rfl : g = f := Option.some.inj ht
    exact ⟨hg, rfl⟩

theorem finish_ok_fault (hs : s.fault = none) (h : finish s (.ok u) = .next t) (hu : u.fault = s.fault) : t.fault ≠ some f :=
  fun ht => nomatch (finish_fault hs (fun _ e => Except.ok.inj e ▸ hu) h ht).1

theorem bankSwitch_fault {c : BitVec 7} (h : bankSwitch s c = .ok u) : u.fault = s.fault := by
  obtain rfl | ⟨limit, -, -, -, rfl⟩ := bankSwitch_cases h <;> rfl

theorem storeEram_fault (h : storeEram s a v = .ok u) : u.fault = s.fault := by
  unfold storeEram at h
  split at h
  · exact Except.ok.inj h ▸ State.putEram_fault s _ v
  · cases h

theorem romCell_error (h : romCell s a = .error f) : s.cfg.nRomBanks ≤ s.romBank.toNat ∧ f = .bankOutOfRange .rom s.romBank.toNat := by
  unfold romCell at h
  split at h
  · cases h
  · exact ⟨by omega, (Except.error.inj h).symm⟩

theorem eramCell_error (h : eramCell s a = .error f) :
    s.cfg.nEramBanks ≤ s.ramBank.toNat ∧ f = .bankOutOfRange .eram s.ramBank.toNat := by
  unfold eramCell at h
  split at h
  · cases h
  · exact ⟨by omega, (Except.error.inj h).symm⟩

theorem storeEram_error (h : storeEram s a v = .error f) :
    s.cfg.nEramBanks ≤ s.ramBank.toNat ∧ f = .bankOutOfRange .eram s.ramBank.toNat := by
  unfold storeEram at h
  split at h
  · cases h
  · exact ⟨by omega, (Except.error.inj h).symm⟩

theorem execWcMbc1Mode_fault (a : Addr) (hs : s.fault = none) (h : execWcMbc1Mode a v s = .next t) : t.fault ≠ some f := by
  unfold execWcMbc1Mode at h
  split at h <;> exact finish_ok_fault hs h rfl

/-- A fault that a run of byte copies begun in `s` can end in (R193). -/
def IsTransferFault (s : State) (f : Fault) : Prop :=
  s.cfg.nRomBanks ≤ s.romBank.toNat ∧ f = .bankOutOfRange .rom s.romBank.toNat ∨
    s.rtcSel = 0 ∧ s.cfg.nEramBanks ≤ s.ramBank.toNat ∧ f = .bankOutOfRange .eram s.ramBank.toNat

theorem execWmDma_fault (hs : s.fault = none) (h : execWmDma v s = .next t) (ht : t.fault = some f) :
    t.cycles = s.cycles ∧ IsTransferFault s f := by
  obtain ⟨u, hu, rfl⟩ | ⟨g, u, hu, rfl⟩ := execWmDma_cases h
  · have hfault : u.fault = none := (copyBytes_ok_sameRegisters hu).fault.trans hs
    cases hfault.symm.trans ht
  · obtain rfl : g = f := Option.some.inj ht
    exact ⟨(copyBytes_error_sameRegisters hu).cycles, copyBytes_error (s := s.putFlat s.cfg.regs.dma v) hu⟩

theorem execWmHdma5_fault (hs : s.fault = none) (h : execWmHdma5 v s = .next t) (ht : t.fault = some f) :
    t.cycles = s.cycles ∧ IsTransferFault s f := by
  obtain ⟨-, rfl⟩ | ⟨-, ⟨u, hu, rfl⟩ | ⟨g, u, hu, rfl⟩⟩ := execWmHdma5_cases h
  · cases hs.symm.trans ht
  · have hfault : u.fault = none := (copyBytes_ok_sameRegisters hu).fault.trans hs
    cases hfault.symm.trans ht
  · obtain rfl : g = f := Option.some.inj ht
    exact ⟨(copyBytes_error_sameRegisters hu).cycles, copyBytes_error (s := s.putFlat s.cfg.regs.hdma5 v) hu⟩

theorem bankSwitch_finish_fault {c : BitVec 7} (hs : s.fault = none) (h : finish s (bankSwitch s c) = .next t)
    (ht : t.fault = some f) :
    6 < s.cfg.romClass ∧ f = .configFatal s.cfg.kind s.cfg.romClass s.cfg.ramClass ∧ t = s.raise f := by
  obtain ⟨herr, rfl⟩ := finish_fault hs (fun _ => bankSwitch_fault) h ht
  obtain ⟨hclass, rfl⟩ := bankSwitch_error herr
  exact ⟨romLimit_eq_none hclass, rfl, rfl⟩

/-- Settles O8: an operation that ends in a state with no record of its own records nothing, so a fault comes from the bank
switch, from one of the three direct accesses, or from a transfer's. -/
theorem faultsAreTheListedOnes : Obligations.FaultsAreTheListedOnes := by
  intro s t i f hs h ht
  cases i with
  | wcMbc1Romb a v => exact .inl ⟨⟨a, v, .inl rfl⟩, bankSwitch_finish_fault hs h ht⟩
  | wcMbc3Romb a v => exact .inl ⟨⟨a, v, .inr (.inl rfl)⟩, bankSwitch_finish_fault hs h ht⟩
  | wcMbc1Romhi a v => exact .inl ⟨⟨a, v, .inr (.inr rfl)⟩, bankSwitch_finish_fault hs h ht⟩
  | rdRomx a =>
    obtain ⟨herr, rfl⟩ := answer_fault hs h ht
    obtain ⟨hbank, rfl⟩ := romCell_error herr
    exact .inr (.inl ⟨⟨a, rfl⟩, hbank, rfl, rfl⟩)
  | rdEram a =>
    obtain ⟨herr, rfl⟩ := answer_fault hs h ht
    obtain ⟨hbank, rfl⟩ := eramCell_error herr
    exact .inr (.inr (.inl ⟨⟨a, 0, .inl rfl⟩, hbank, rfl, rfl⟩))
  | wmEram a v =>
    obtain ⟨herr, rfl⟩ := finish_fault hs (fun _ => storeEram_fault) h ht
    obtain ⟨hbank, rfl⟩ := storeEram_error herr
    exact .inr (.inr (.inl ⟨⟨a, v, .inr rfl⟩, hbank, rfl, rfl⟩))
  | wmDma v => exact .inr (.inr (.inr ⟨⟨v, .inl rfl⟩, execWmDma_fault hs h ht⟩))
  | wmHdma5 v => exact .inr (.inr (.inr ⟨⟨v, .inr rfl⟩, execWmHdma5_fault hs h ht⟩))
  | rdVram | rdRtc | rdWramx | rdSnd | rdLcdc | rdStat | rdBgpd | rdObpd | rdFlat => exact absurd ht (answer_ok_fault hs h)
  | wcMbc1Mode a => exact absurd ht (execWcMbc1Mode_fault a hs h)
  | wcMbc3Latch | wmVbk | wmSvbk => exact absurd ht (finish_ok_fault hs h (by split <;> rfl))
  | wcNopLow | wcNopKind | wcMbc1Ramb | wcMbc3Ramb | wcMbc3Rtcsel | wcMbc3Secign | wmVram | wmRtc | wmWramx
  | wmSndReg | wmSndWave | wmLcdc | wmStat | wmBgpi | wmBgpd | wmObpi | wmObpd | wmHdma1 | wmHdma2 | wmHdma3 | wmHdma4
  | wmFlat => exact absurd ht (finish_ok_fault hs h rfl)

/-! ## The pointer invariants (R28) -/

/-- All that the pointer invariants are about. -/
def State.pointers (s : State) : Config × BitVec 7 × Byte × Bool × Byte × BitVec 3 × BitVec 1 :=
  (s.cfg, s.romBank, s.ramBank, s.bankMode, s.rtcSel, s.wramBank, s.vramBank)

theorem SameRegisters.pointers (h : SameRegisters s t) : t.pointers = s.pointers := by
  simp only [State.pointers, h.cfg, h.romBank, h.ramBank, h.bankMode, h.rtcSel, h.wramBank, h.vramBank]

theorem State.PointersLegal.of_eq (hs : s.PointersLegal) (h : t.pointers = s.pointers) : t.PointersLegal := by
  simp only [State.pointers, Prod.mk.injEq] at h
  obtain ⟨hcfg, hrom, hram, hmode, hsel, hwram, hvram⟩ := h
  constructor
  · rw [hcfg, hrom]; exact hs.romBound
  · rw [hcfg, hrom]; exact hs.romMbc3
  · rw [hcfg, hrom]; exact hs.romFixed
  · rw [hsel]; exact hs.rtcRange
  · rw [hcfg, hsel]; exact hs.rtcMbc3
  · rw [hcfg, hram]; exact hs.ramMbc3
  · rw [hcfg, hram]; exact hs.ramFixed
  · rw [hwram]; exact hs.wramRange
  · rw [hcfg, hwram, hvram]; exact hs.plainBanks
  · rw [hcfg, hmode]; exact hs.modeMbc1

theorem State.Legal.of_pointers_eq (hs : s.Legal) (h : t.pointers = s.pointers) (hm : t.MemoriesLegal) : t.Legal :=
  ⟨by rw [show t.cfg = s.cfg from congrArg Prod.fst h]; exact hs.cfg, hs.pointers.of_eq h, hm⟩

/-- A bank switch of a kind that has one: the candidate is below the limit, and at least 1 for MBC3. -/
theorem bankSwitch_pointersLegal {c : BitVec 7} (hs : s.PointersLegal) (hkind : s.cfg.kind = .mbc1 ∨ s.cfg.kind = .mbc3)
    (hc : s.cfg.kind = .mbc3 → 1 ≤ c.toNat) (h : bankSwitch s c = .ok u) : u.PointersLegal := by
  obtain rfl | ⟨limit, hlimit, hclass, hlt, rfl⟩ := bankSwitch_cases h
  · exact hs
  · refine { hs with romBound := .inr (by simpa [hlimit] using hlt), romMbc3 := hc, romFixed := ?_ }
    rintro (h | h | h)
    · exact absurd h hclass
    · rcases hkind with hk | hk <;> cases hk.symm.trans h
    · rcases hkind with hk | hk <;> cases hk.symm.trans h

theorem mbc3RomCandidate_pos (v : Byte) : 1 ≤ (mbc3RomCandidate v).toNat := by
  rw [mbc3RomCandidate_toNat]
  split <;> omega

theorem wramBankOf_pos (v : Byte) : 1 ≤ (wramBankOf v).toNat := by
  rw [wramBankOf_toNat]
  split <;> omega

/-! ## Each way a transaction ends keeps legality -/

theorem State.MemoriesLegal.raise (hs : s.MemoriesLegal) (f : Fault) : (s.raise f).MemoriesLegal := { hs with }
theorem State.MemoriesLegal.complete (hs : s.MemoriesLegal) : s.complete.MemoriesLegal := { hs with }

theorem State.Legal.raise (hs : s.Legal) (f : Fault) : (s.raise f).Legal := hs.of_pointers_eq rfl (hs.memories.raise f)
theorem State.Legal.complete (hs : s.Legal) : s.complete.Legal := hs.of_pointers_eq rfl hs.memories.complete

theorem answer_legal {r : Except Fault Byte} (hs : s.Legal) (h : answer s r = .next t) : t.Legal := by
  obtain ⟨b, -, rfl⟩ | ⟨f, -, rfl⟩ := answer_cases h
  · exact hs.of_pointers_eq rfl { hs.memories with }
  · exact hs.raise f

theorem answer_ok_legal {b : Byte} (hs : s.Legal) (h : answer s (.ok b) = .next t) : t.Legal := answer_legal hs h

theorem finish_legal {r : Except Fault State} (hs : s.Legal) (h : finish s r = .next t) (hr : ∀ u, r = .ok u → u.Legal) :
    t.Legal := by
  obtain ⟨u, hu, rfl⟩ | ⟨f, -, rfl⟩ := finish_cases h
  · exact (hr u hu).complete
  · exact hs.raise f

theorem finish_ok_legal (hs : s.Legal) (h : finish s (.ok u) = .next t) (hu : u.Legal) : t.Legal :=
  finish_legal hs h fun _ e => Except.ok.inj e ▸ hu

/-- A store that moves no pointer. -/
theorem finish_store_legal (hs : s.Legal) (h : finish s (.ok u) = .next t) (hm : u.MemoriesLegal)
    (hp : u.pointers = s.pointers := by rfl) : t.Legal :=
  finish_ok_legal hs h (hs.of_pointers_eq hp hm)

/-! ## The stores keep the canonical form -/

theorem State.MemoriesLegal.putFlat (hs : s.MemoriesLegal) (a : Addr) (v : Byte) : (s.putFlat a v).MemoriesLegal :=
  { hs with flat := Memory.wf_write v a.isLt hs.flat }

theorem State.MemoriesLegal.putVram {k : Nat} (hs : s.MemoriesLegal) (hk : k < 0x4000) : (s.putVram k v).MemoriesLegal :=
  { hs with vram := Memory.wf_write v hk hs.vram }

theorem State.MemoriesLegal.putWram {k : Nat} (hs : s.MemoriesLegal) (hk : k < 0x8000) : (s.putWram k v).MemoriesLegal :=
  { hs with wram := Memory.wf_write v hk hs.wram }

theorem storeEram_memoriesLegal (hs : s.MemoriesLegal) (ha : within 0xa000 0xc000 a = true) (h : storeEram s a v = .ok u) :
    u.MemoriesLegal := by
  unfold storeEram at h
  split at h
  · obtain rfl := Except.ok.inj h
    exact { hs with eram := Memory.wf_write v (eramIndex_lt ha ‹_›) hs.eram }
  · cases h

theorem storeEram_pointers (h : storeEram s a v = .ok u) : u.pointers = s.pointers := by
  unfold storeEram at h
  split at h
  · obtain rfl := Except.ok.inj h
    rfl
  · cases h

/-! ## Each operation keeps legality -/

theorem bankSwitch_legal {c : BitVec 7} (hs : s.Legal) (hkind : s.cfg.kind = .mbc1 ∨ s.cfg.kind = .mbc3)
    (hc : s.cfg.kind = .mbc3 → 1 ≤ c.toNat) (h : bankSwitch s c = .ok u) : u.Legal := by
  have hpointers := bankSwitch_pointersLegal hs.pointers hkind hc h
  obtain rfl | ⟨limit, -, -, -, rfl⟩ := bankSwitch_cases h
  · exact hs
  · exact ⟨hs.cfg, hpointers, { hs.memories with }⟩

theorem execWcMbc1Ramb_legal (a : Addr) (hs : s.Legal) (hkind : s.cfg.kind = .mbc1) (h : execWcMbc1Ramb a v s = .next t) : t.Legal := by
  refine finish_ok_legal hs h ⟨hs.cfg, { hs.pointers with ramMbc3 := ?_, ramFixed := ?_ }, { hs.memories with }⟩
  · exact fun hk => nomatch hkind.symm.trans hk
  · rintro (hk | hk) <;> cases hkind.symm.trans hk

theorem execWcMbc3Ramb_legal (a : Addr) (hs : s.Legal) (hkind : s.cfg.kind = .mbc3) (hv : v.toNat ≤ 7)
    (h : execWcMbc3Ramb a v s = .next t) : t.Legal := by
  refine finish_ok_legal hs h ⟨hs.cfg,
    { hs.pointers with rtcRange := .inl rfl, rtcMbc3 := fun _ => rfl, ramMbc3 := fun _ => hv, ramFixed := ?_ },
    { hs.memories with }⟩
  rintro (hk | hk) <;> cases hkind.symm.trans hk

theorem execWcMbc3Rtcsel_legal (a : Addr) (hs : s.Legal) (hkind : s.cfg.kind = .mbc3) (hlo : 8 ≤ v.toNat) (hhi : v.toNat ≤ 12)
    (h : execWcMbc3Rtcsel a v s = .next t) : t.Legal :=
  finish_ok_legal hs h ⟨hs.cfg,
    { hs.pointers with rtcRange := .inr ⟨hlo, hhi⟩, rtcMbc3 := fun hk => absurd hkind hk }, { hs.memories with }⟩

theorem execWcMbc1Mode_legal (a : Addr) (hs : s.Legal) (hkind : s.cfg.kind = .mbc1) (h : execWcMbc1Mode a v s = .next t) :
    t.Legal := by
  unfold execWcMbc1Mode at h
  split at h
  · exact finish_ok_legal hs h ⟨hs.cfg, { hs.pointers with modeMbc1 := fun hk => absurd hkind hk }, { hs.memories with }⟩
  · exact finish_ok_legal hs h hs

theorem execWcMbc3Latch_legal (a : Addr) (hs : s.Legal) (h : execWcMbc3Latch a v s = .next t) : t.Legal := by
  refine finish_ok_legal hs h ?_
  split
  · exact hs.of_pointers_eq rfl { hs.memories with }
  · exact hs

theorem execWmVbk_legal (hs : s.Legal) (h : execWmVbk v s = .next t) : t.Legal := by
  have hput := hs.memories.putFlat s.cfg.regs.vbk v
  refine finish_ok_legal hs h ?_
  split
  · rename_i hcolor
    exact ⟨hs.cfg, { hs.pointers with plainBanks := fun hc => nomatch hcolor.symm.trans hc }, { hput with }⟩
  · exact hs.of_pointers_eq rfl hput

theorem execWmSvbk_legal (hs : s.Legal) (h : execWmSvbk v s = .next t) : t.Legal := by
  have hput := hs.memories.putFlat s.cfg.regs.svbk v
  refine finish_ok_legal hs h ?_
  split
  · rename_i hcolor
    exact ⟨hs.cfg, { hs.pointers with
      wramRange := wramBankOf_pos v, plainBanks := fun hc => nomatch hcolor.symm.trans hc }, { hput with }⟩
  · exact hs.of_pointers_eq rfl hput

theorem execWmDma_legal (hs : s.Legal) (h : execWmDma v s = .next t) : t.Legal := by
  have hput := hs.memories.putFlat s.cfg.regs.dma v
  obtain ⟨u, hu, rfl⟩ | ⟨f, u, hu, rfl⟩ := execWmDma_cases h
  · exact hs.of_pointers_eq (copyBytes_ok_sameRegisters hu).pointers { (copyBytes_memoriesLegal hput).1 u hu with }
  · exact hs.of_pointers_eq (copyBytes_error_sameRegisters hu).pointers (((copyBytes_memoriesLegal hput).2 f u hu).raise f)

theorem execWmHdma5_legal (hs : s.Legal) (h : execWmHdma5 v s = .next t) : t.Legal := by
  have hput := hs.memories.putFlat s.cfg.regs.hdma5 v
  obtain ⟨-, rfl⟩ | ⟨-, ⟨u, hu, rfl⟩ | ⟨f, u, hu, rfl⟩⟩ := execWmHdma5_cases h
  · exact hs.of_pointers_eq rfl hput.complete
  · exact hs.of_pointers_eq (copyBytes_ok_sameRegisters hu).pointers
      (((copyBytes_memoriesLegal hput).1 u hu).putFlat s.cfg.regs.hdma5 0xff).complete
  · exact hs.of_pointers_eq (copyBytes_error_sameRegisters hu).pointers (((copyBytes_memoriesLegal hput).2 f u hu).raise f)

/-- Legality for one operation that is well formed in the mode: the condition of its row is what its pointer needs. -/
theorem exec_legal (hs : s.Legal) (hi : i.wf s.mode = true) (h : exec i s = .next t) : t.Legal := by
  have hm := hs.memories
  cases i with
  | rdRomx | rdEram => exact answer_legal hs h
  | rdVram | rdRtc | rdWramx | rdSnd | rdLcdc | rdStat | rdBgpd | rdObpd | rdFlat => exact answer_ok_legal hs h
  | wcNopLow | wcNopKind | wcMbc3Secign => exact finish_ok_legal hs h hs
  | wcMbc1Romb a v =>
    obtain ⟨-, hk⟩ := Bool.and_eq_true _ _ ▸ hi
    have hkind : s.cfg.kind = .mbc1 := eq_of_beq hk
    exact finish_legal hs h fun _ => bankSwitch_legal hs (.inl hkind) fun h3 => nomatch hkind.symm.trans h3
  | wcMbc1Romhi a v =>
    obtain ⟨hk, -⟩ := Bool.and_eq_true _ _ ▸ hi
    obtain ⟨-, hk⟩ := Bool.and_eq_true _ _ ▸ hk
    have hkind : s.cfg.kind = .mbc1 := eq_of_beq hk
    exact finish_legal hs h fun _ => bankSwitch_legal hs (.inl hkind) fun h3 => nomatch hkind.symm.trans h3
  | wcMbc3Romb a v =>
    obtain ⟨-, hk⟩ := Bool.and_eq_true _ _ ▸ hi
    exact finish_legal hs h fun _ => bankSwitch_legal hs (.inr (eq_of_beq hk)) fun _ => mbc3RomCandidate_pos v
  | wcMbc1Ramb a v =>
    simp only [Instr.wf, Bool.and_eq_true, beq_iff_eq, and_assoc] at hi
    obtain ⟨-, hkind, -⟩ := hi
    exact execWcMbc1Ramb_legal a hs hkind h
  | wcMbc3Ramb a v =>
    simp only [Instr.wf, Bool.and_eq_true, beq_iff_eq, decide_eq_true_eq, and_assoc] at hi
    obtain ⟨-, hkind, hv⟩ := hi
    exact execWcMbc3Ramb_legal a hs hkind hv h
  | wcMbc3Rtcsel a v =>
    simp only [Instr.wf, Bool.and_eq_true, beq_iff_eq, decide_eq_true_eq, and_assoc] at hi
    obtain ⟨-, hkind, hlo, hhi⟩ := hi
    exact execWcMbc3Rtcsel_legal a hs hkind hlo hhi h
  | wcMbc1Mode a v =>
    obtain ⟨-, hk⟩ := Bool.and_eq_true _ _ ▸ hi
    exact execWcMbc1Mode_legal a hs (eq_of_beq hk) h
  | wcMbc3Latch a v => exact execWcMbc3Latch_legal a hs h
  | wmVram a v => exact finish_store_legal hs h (hm.putVram (vramIndex_lt hi))
  | wmEram a v =>
    obtain ⟨ha, -⟩ := Bool.and_eq_true _ _ ▸ hi
    exact finish_legal hs h fun u hu => hs.of_pointers_eq (storeEram_pointers hu) (storeEram_memoriesLegal hm ha hu)
  | wmWramx a v =>
    obtain ⟨ha, -⟩ := Bool.and_eq_true _ _ ▸ hi
    exact finish_store_legal hs h (hm.putWram (wramIndex_lt ha))
  | wmRtc => exact finish_store_legal hs h { hm with }
  | wmBgpd v =>
    exact finish_store_legal hs h
      { hm.putFlat s.cfg.regs.bgpd v with bgPal := Memory.wf_write v s.bgIdx.isLt hm.bgPal }
  | wmObpd v =>
    exact finish_store_legal hs h
      { hm.putFlat s.cfg.regs.obpd v with obPal := Memory.wf_write v s.obIdx.isLt hm.obPal }
  | wmVbk v => exact execWmVbk_legal hs h
  | wmSvbk v => exact execWmSvbk_legal hs h
  | wmDma v => exact execWmDma_legal hs h
  | wmHdma5 v => exact execWmHdma5_legal hs h
  | wmSndReg a v | wmSndWave a v | wmFlat a v => exact finish_store_legal hs h { hm.putFlat a v with }
  | wmLcdc v => exact finish_store_legal hs h { hm.putFlat s.cfg.regs.lcdc v with }
  | wmStat v => exact finish_store_legal hs h { hm.putFlat s.cfg.regs.stat v with }
  | wmBgpi v => exact finish_store_legal hs h { hm.putFlat s.cfg.regs.bgpi v with }
  | wmObpi v => exact finish_store_legal hs h { hm.putFlat s.cfg.regs.obpi v with }
  | wmHdma1 v => exact finish_store_legal hs h (hm.putFlat s.cfg.regs.hdma1 v)
  | wmHdma2 v => exact finish_store_legal hs h (hm.putFlat s.cfg.regs.hdma2 v)
  | wmHdma3 v => exact finish_store_legal hs h (hm.putFlat s.cfg.regs.hdma3 v)
  | wmHdma4 v => exact finish_store_legal hs h (hm.putFlat s.cfg.regs.hdma4 v)

/-- The environment moves no pointer, and its stores lie within their arrays. -/
theorem applyEnv_legal (hs : s.Legal) (e : EnvEvent) : (s.applyEnv e).Legal := by
  refine hs.of_pointers_eq (by cases e <;> rfl) ?_
  have hm := hs.memories
  cases e with
  | vram b o v => exact hm.putVram (by have := b.isLt; have := o.isLt; omega)
  | bgPal i v => exact { hm with bgPal := Memory.wf_write v i.isLt hm.bgPal }
  | obPal i v => exact { hm with obPal := Memory.wf_write v i.isLt hm.obPal }
  | lcdc | stat | bgIdx | obIdx | bgInc | obInc | sound | clock | cycles => exact { hm with }

theorem State.Legal.setInputs (hs : s.Legal) (l : List Input) : (s.setInputs l).Legal :=
  hs.of_pointers_eq rfl { hs.memories with }

theorem State.Legal.regs (hs : s.Legal) : s.cfg.regs.wf = true := by
  have h := hs.cfg
  simp only [Config.wf, Bool.and_eq_true, and_assoc] at h
  exact h.1

/-- Settles O11: a step idles, lets the environment change shared state, or performs an operation that is well formed in its mode. -/
theorem stepKeepsLegal : Obligations.StepKeepsLegal := by
  intro s t hs h
  obtain ⟨-, ⟨-, rfl⟩ | ⟨w, rest, -, hexec⟩ | ⟨e, rest, -, rfl⟩⟩ := step_cases h
  · exact hs
  · exact exec_legal (hs.setInputs rest) (decode_wf (m := s.mode) hs.regs w) hexec
  · exact applyEnv_legal (hs.setInputs rest) e

/-- Settles O10: every memory is empty, and the rest is the reset record itself. -/
theorem resetIsLegal : Obligations.ResetIsLegal := by
  refine ⟨⟨by decide, ?_, ⟨rfl, rfl, rfl, rfl, rfl, rfl, rfl⟩⟩, rfl⟩
  constructor <;> decide

/-! ## A well-formed configuration never faults -/

/-- The ROM pointer of a legal state names a bank: it is 1 or below the class limit, and there are that many banks. -/
theorem State.Legal.romBank_lt (hs : s.Legal) : s.romBank.toNat < s.cfg.nRomBanks := by
  have h := hs.cfg
  simp only [Config.wf, Bool.and_eq_true, decide_eq_true_eq, and_assoc] at h
  obtain ⟨-, htwo, hlimit, -⟩ := h
  rcases hs.pointers.romBound with hone | hlt
  · rw [hone]
    exact Nat.lt_of_lt_of_le (by decide) htwo
  · omega

/-- A bank-switching operation that is well formed in the mode needs a controller, hence a recognised class. -/
theorem romClass_le_of_switches (hi : i.wf s.mode = true) (hswitch : switchesRomBank i = true) (hknown : s.cfg.romClassKnown = true) :
    s.cfg.romClass ≤ 6 := by
  have hkind : s.cfg.kind.isPlain = false := by
    have hcontroller : s.cfg.kind = .mbc1 ∨ s.cfg.kind = .mbc3 := by
      cases i with
      | wcMbc1Romb | wcMbc3Romb | wcMbc1Romhi =>
        simp only [Instr.wf, Bool.and_eq_true, beq_iff_eq, State.mode_kind] at hi
        tauto
      | _ => cases hswitch
    rcases hcontroller with h | h <;> rw [h] <;> rfl
  rw [Config.romClassKnown, hkind, Bool.false_or, Option.isSome_iff_ne_none] at hknown
  by_contra hgt
  refine hknown ?_
  match hc : s.cfg.romClass with
  | 0 | 1 | 2 | 3 | 4 | 5 | 6 => omega
  | _ + 7 => rfl

theorem eramWindowOpen_iff : s.eramWindowOpen = true ↔ (s.rtcSel = 0 → s.ramBank.toNat < s.cfg.nEramBanks) := by
  simp only [State.eramWindowOpen, Bool.or_eq_true, bne_iff_ne, ne_eq, decide_eq_true_eq]
  tauto

/-- A direct access to external RAM is well formed only while no clock register is mapped. -/
theorem rtcSel_of_access_wf (hi : i.wf s.mode = true) (haccess : ∃ a v, i = .rdEram a ∨ i = .wmEram a v) : s.rtcSel = 0 := by
  obtain ⟨a, v, rfl | rfl⟩ := haccess <;>
  · obtain ⟨-, hsel⟩ := Bool.and_eq_true _ _ ▸ hi
    exact eq_of_beq hsel

/-- R270 for one operation: each of the four cases of a fault contradicts a premise. -/
theorem exec_fault_none (hs : s.Legal) (hknown : s.cfg.romClassKnown = true) (hopen : s.eramWindowOpen = true)
    (hf : s.fault = none) (hi : i.wf s.mode = true) (h : exec i s = .next t) : t.fault = none := by
  have hrom := hs.romBank_lt
  rw [eramWindowOpen_iff] at hopen
  by_contra hne
  obtain ⟨f, ht⟩ := Option.ne_none_iff_exists'.mp hne
  rcases faultsAreTheListedOnes s t i f hf h ht with ⟨hswitch, hclass, -⟩ | ⟨-, hbank, -⟩ | ⟨haccess, hbank, -⟩ |
    ⟨-, -, ⟨hbank, -⟩ | ⟨hsel, hbank, -⟩⟩
  · have := romClass_le_of_switches hi (switchesRomBank_iff.mpr hswitch) hknown
    omega
  · omega
  · have := hopen (rtcSel_of_access_wf hi haccess)
    omega
  · omega
  · have := hopen hsel
    omega

/-- Settles O9: idling and the environment record nothing, and a transaction of the mode cannot fault under the premises. -/
theorem wellFormedConfigurationNeverFaults : Obligations.WellFormedConfigurationNeverFaults := by
  intro s t hs hknown hopen h
  obtain ⟨hf, ⟨-, rfl⟩ | ⟨w, rest, -, hexec⟩ | ⟨e, rest, -, rfl⟩⟩ := step_cases h
  · exact hf
  · exact exec_fault_none (hs.setInputs rest) hknown hopen hf (decode_wf (m := s.mode) hs.regs w) hexec
  · rw [applyEnv_frame]
    exact hf

end Sys2Proof.Machine
end

section
/-! PROOF. The transfers as transactions of the block itself (spec 43_dma_hdma.md): no destination of a transfer triggers anything
(R191, R214), so each byte copy is a read and a write transaction, and what does not touch the copied bytes, like the video
DMA's mode bit, makes no difference. -/
namespace Sys2Proof.Machine
open Claims (moves unlessFaulted)

variable {s t u : State} {m : Mode} {a b src dst : Addr} {v : Byte} {f : Fault} {n : Nat}

/-! ## The destinations of the two transfers -/

theorem inOam_add {r : AddrMap} (hr : r.wf = true) (hn : n < oamLength) : r.inOam (r.oam + BitVec.ofNat 16 n) = true := by
  rw [AddrMap.inOam, within_iff, AddrMap.wf_oam_add hr hn]
  omega

/-- A video DMA neither wraps nor leaves the video-RAM and external-RAM windows: it ends at 0xa7fe at the latest. -/
theorem videoDest_add (h3 h4 : Byte) {c : Byte} (hn : n < videoLength c) :
    (videoDest h3 h4 + BitVec.ofNat 16 n).toNat = (videoDest h3 h4).toNat + n ∧ 0x8000 ≤ (videoDest h3 h4).toNat ∧
      (videoDest h3 h4).toNat + n ≤ 0xa7fe := by
  have := h4.isLt
  rw [videoLength_eq] at hn
  rw [BitVec.toNat_add, BitVec.toNat_ofNat, videoDest_toNat]
  omega

/-- Settles O51: the table is plain flat storage, and the two windows that a video DMA reaches have no dispatcher row. -/
theorem transferWritesTriggerNothing : Obligations.TransferWritesTriggerNothing := by
  refine fun m hr => ⟨fun n v hn => (decode_writeWord _ _ _).trans (decodeWrite_oam hr (inOam_add hr hn) v),
    fun h3 h4 c v n hn => ?_⟩
  obtain ⟨hadd, hlo, hhi⟩ := videoDest_add h3 h4 hn
  refine ⟨by omega, by omega, ?_⟩
  rw [decode_writeWord]
  by_cases hvram : (videoDest h3 h4 + BitVec.ofNat 16 n).toNat < 0xa000
  · exact .inl (decodeWrite_vram ((within_iff _ _ _).mpr ⟨by omega, hvram⟩))
  · have hwindow : within 0xa000 0xc000 (videoDest h3 h4 + BitVec.ofNat 16 n) = true := (within_iff _ _ _).mpr (by omega)
    by_cases hsel : m.rtcSel = 0
    · exact .inr (.inl (decodeWrite_eram hsel hwindow))
    · exact .inr (.inr (decodeWrite_rtc hsel hwindow))

/-! ## A run of byte copies beside another change of the state -/

/-- The address after the first of a run. -/
theorem addr_add_succ (a : Addr) (i : Nat) : a + 1 + BitVec.ofNat 16 i = a + BitVec.ofNat 16 (i + 1) := by
  rw [Nat.add_comm, BitVec.ofNat_add, ← BitVec.add_assoc]
  rfl

/-- A change that no source sees and that every store commutes with commutes with the run of copies. -/
theorem copyBytes_map {g : State → State}
    (hread : ∀ i < n, ∀ u, readByte (g u) (src + BitVec.ofNat 16 i) = readByte u (src + BitVec.ofNat 16 i))
    (hstore : ∀ i < n, ∀ u v,
      storeByte (g u) (dst + BitVec.ofNat 16 i) v = (storeByte u (dst + BitVec.ofNat 16 i) v).map g) :
    copyBytes n src dst (g s) = mapTransfer g (copyBytes n src dst s) := by
  induction n generalizing src dst s with
  | zero => rfl
  | succ n ih =>
    have hread0 : readByte (g s) src = readByte s src := by simpa using hread 0 (by omega) s
    have hstore0 : ∀ v, storeByte (g s) dst v = (storeByte s dst v).map g := fun v => by simpa using hstore 0 (by omega) s v
    unfold copyBytes
    rw [hread0]
    cases readByte s src with
    | error f => rfl
    | ok b =>
      dsimp only
      rw [hstore0]
      cases storeByte s dst b with
      | error f => rfl
      | ok u =>
        refine ih (fun i hi u => ?_) fun i hi u v => ?_
        · rw [addr_add_succ]; exact hread (i + 1) (by omega) u
        · rw [addr_add_succ]; exact hstore (i + 1) (by omega) u v

/-- The state with another byte, or none, in the response field. -/
def State.setResponse (r : Option Byte) (s : State) : State := { s with response := r }

theorem respond_eq (s : State) (b : Byte) : s.respond b = s.setResponse (some b) := rfl
theorem complete_eq (s : State) : s.complete = s.setResponse none := rfl

theorem readByte_setResponse (r : Option Byte) : readByte (s.setResponse r) a = readByte s a := rfl

theorem storeByte_setResponse (r : Option Byte) :
    storeByte (s.setResponse r) a v = (storeByte s a v).map (State.setResponse r) := by
  unfold storeByte
  rw [show (s.setResponse r).mode = s.mode from rfl]
  cases regionW s.mode a with
  | eram => dsimp only [storeEram, State.setResponse]; split <;> rfl
  | _ => rfl

theorem copyBytes_setResponse (r : Option Byte) :
    copyBytes n src dst (s.setResponse r) = mapTransfer (State.setResponse r) (copyBytes n src dst s) :=
  copyBytes_map (fun _ _ _ => readByte_setResponse r) fun _ _ _ _ => storeByte_setResponse r

/-! ## A byte copy is a read and a write transaction -/

theorem regionW_ne_cart (ha : 0x8000 ≤ a.toNat) : regionW m a ≠ .cart := by
  unfold regionW
  rw [if_neg (by omega)]
  repeat' split
  all_goals decide

theorem regionW_ne_flat (ha : a.toNat < 0xc000) : regionW m a ≠ .flat := by
  by_cases hcart : a.toNat ≤ 0x7fff
  · rw [regionW_cart hcart]; decide
  by_cases hvram : a.toNat < 0xa000
  · rw [regionW_vram ((within_iff _ _ _).mpr ⟨by omega, hvram⟩)]; decide
  · rw [regionW_window ((within_iff _ _ _).mpr ⟨by omega, ha⟩)]
    split <;> decide

/-- A write transaction above the command windows without a dispatcher row is the store of the transfers (R191). -/
theorem exec_decodeWrite_plain (hlow : 0x8000 ≤ a.toNat) (hplain : ioRow s.cfg.regs a = .plain) :
    exec (decodeWrite s.mode a v) s = finish s (storeByte s a v) := by
  unfold decodeWrite storeByte
  cases hregion : regionW s.mode a with
  | cart => exact absurd hregion (regionW_ne_cart hlow)
  | flat => dsimp only [decodeFlatStore]; rw [State.mode_regs, hplain]; rfl
  | _ => rfl

/-- How a transfer's copies end: complete, or with the fault on record (R193). -/
def endOf : Except (Fault × State) State → State
  | .ok t => t.complete
  | .error e => e.2.raise e.1

theorem endOf_mapTransfer_setResponse (r : Option Byte) (x : Except (Fault × State) State) :
    endOf (mapTransfer (State.setResponse r) x) = endOf x := by
  cases x <;> rfl

theorem complete_of_response (h : s.response = none) : s.complete = s := by
  cases s
  cases h
  rfl

/-- One turn of the bus agent at a destination that triggers nothing: a byte read, a byte store, and on with the next addresses. -/
theorem moves_succ (hf : s.fault = none) (hlow : 0x8000 ≤ dst.toNat) (hplain : ioRow s.cfg.regs dst = .plain) :
    moves (n + 1) src dst s =
      match readByte s src with
      | .error f => s.raise f
      | .ok b =>
        match storeByte s dst b with
        | .error f => s.raise f
        | .ok u => moves n (src + 1) (dst + 1) u.complete := by
  rw [moves, decode_readWord, exec_decodeRead]
  cases readByte s src with
  | error f => rfl
  | ok b =>
    simp only [answer_ok, State.respond_response, decode_writeWord]
    rw [exec_decodeWrite_plain (s := s.respond b) hlow hplain, respond_eq, storeByte_setResponse]
    cases hstore : storeByte s dst b with
    | error f => rfl
    | ok u =>
      have hfault : u.fault = none := (congrArg State.fault (storeByte_frame hstore)).trans hf
      exact if_pos hfault

/-- The bus agent does what a run of byte copies does, when no destination triggers anything. -/
theorem moves_eq_endOf_copyBytes (hf : s.fault = none) (hn : n = 0 → s.response = none)
    (hdst : ∀ i < n, 0x8000 ≤ (dst + BitVec.ofNat 16 i).toNat ∧ ioRow s.cfg.regs (dst + BitVec.ofNat 16 i) = .plain) :
    moves n src dst s = endOf (copyBytes n src dst s) := by
  induction n generalizing src dst s with
  | zero => exact (complete_of_response (hn rfl)).symm
  | succ n ih =>
    obtain ⟨hlow, hplain⟩ : 0x8000 ≤ dst.toNat ∧ ioRow s.cfg.regs dst = .plain := by simpa using hdst 0 (by omega)
    rw [moves_succ hf hlow hplain, copyBytes]
    cases readByte s src with
    | error f => rfl
    | ok b =>
      dsimp only
      cases hstore : storeByte s dst b with
      | error f => rfl
      | ok u =>
        dsimp only
        have hsame : SameRegisters s u := sameRegisters_of_frame (storeByte_frame hstore)
        rw [ih (s := u.complete) (hsame.fault.trans hf) (fun _ => rfl) fun i hi => ?_, complete_eq, copyBytes_setResponse,
          endOf_mapTransfer_setResponse]
        rw [addr_add_succ, State.complete_cfg, hsame.cfg]
        exact hdst (i + 1) (by omega)

/-- What a transfer does once its bytes are moved, unless a fault ended it. -/
theorem finishTransfer_map {x : Except (Fault × State) State} {g : State → State} (hg : ∀ t : State, (g t).complete = g t.complete)
    (hx : ∀ t, x = .ok t → t.fault = none) : finishTransfer (x.map g) = .next (unlessFaulted (endOf x) g) := by
  cases x with
  | ok t => exact congrArg Host.Outcome.next ((hg t).trans (if_pos (hx t rfl)).symm)
  | error e => rfl

theorem oamDma_eq (v : Byte) (s : State) :
    oamDma v s = (copyBytes oamLength (oamSource v) s.cfg.regs.oam s).map fun t => { t with cycles := t.cycles + oamCycles } := by
  unfold oamDma
  cases copyBytes oamLength (oamSource v) s.cfg.regs.oam s <;> rfl

/-- Settles O52: the table is plain flat storage, so `WM.DMA` is the bus agent's run of transactions. -/
theorem oamDmaIsReadAndWriteTransactions : Obligations.OamDmaIsReadAndWriteTransactions := by
  intro s v hr hf
  have hmoves := moves_eq_endOf_copyBytes (n := oamLength) (src := oamSource v) (dst := s.cfg.regs.oam)
    (s := s.putFlat s.cfg.regs.dma v) hf (fun h => nomatch h) fun i hi => ⟨by
      have := oamPlace_bounds (AddrMap.wf_oamPlace hr)
      rw [AddrMap.wf_oam_add hr hi]; omega, ioRow_oam hr (inOam_add hr hi)⟩
  change finishTransfer (oamDma v (s.putFlat s.cfg.regs.dma v)) =
    .next (unlessFaulted (moves oamLength (oamSource v) s.cfg.regs.oam (s.putFlat s.cfg.regs.dma v)) _)
  rw [hmoves, oamDma_eq]
  exact finishTransfer_map (fun _ => rfl) fun t ht => (copyBytes_ok_sameRegisters ht).fault.trans hf

/-! ## The video DMA -/

theorem videoDma_eq (c : Byte) (s : State) :
    videoDma c s =
      (copyBytes (videoLength c) (videoSource (flatCell s s.cfg.regs.hdma1) (flatCell s s.cfg.regs.hdma2))
        (videoDest (flatCell s s.cfg.regs.hdma3) (flatCell s s.cfg.regs.hdma4)) s).map
        fun t => t.putFlat s.cfg.regs.hdma5 0xff := by
  unfold videoDma
  dsimp only
  generalize copyBytes _ _ _ s = x
  cases x <;> rfl

theorem flatCell_putFlat_other (hne : b ≠ a) : flatCell (s.putFlat a v) b = flatCell s b :=
  Memory.read_write_other _ _ fun e => hne (BitVec.eq_of_toNat_eq e)

/-- The source that the four register cells of `s` give (R185). -/
def sourceOf (s : State) : Addr := videoSource (flatCell s s.cfg.regs.hdma1) (flatCell s s.cfg.regs.hdma2)

/-- The destination that they give (R186). -/
def destOf (s : State) : Addr := videoDest (flatCell s s.cfg.regs.hdma3) (flatCell s s.cfg.regs.hdma4)

/-- `WM.HDMA5` in colour mode: the trigger byte is stored, but the addresses are those that `s` gives, since the four registers lie
elsewhere. -/
theorem execWmHdma5_color {c : Byte} (hr : s.cfg.regs.wf = true) (hcolor : s.cfg.color = true) :
    execWmHdma5 c s =
      finishTransfer ((copyBytes (videoLength c) (sourceOf s) (destOf s) (s.putFlat s.cfg.regs.hdma5 c)).map
        fun t => t.putFlat s.cfg.regs.hdma5 0xff) := by
  have hne {a : Addr} (h : ioRow s.cfg.regs a ≠ .hdma5) : a ≠ s.cfg.regs.hdma5 :=
    ne_of_ioRow (r := s.cfg.regs) (by rw [ioRow_hdma5 hr]; exact h)
  unfold execWmHdma5
  dsimp only
  rw [if_pos hcolor, videoDma_eq, State.putFlat_cfg, flatCell_putFlat_other (hne (by rw [ioRow_hdma1 hr]; decide)),
    flatCell_putFlat_other (hne (by rw [ioRow_hdma2 hr]; decide)), flatCell_putFlat_other (hne (by rw [ioRow_hdma3 hr]; decide)),
    flatCell_putFlat_other (hne (by rw [ioRow_hdma4 hr]; decide))]
  rfl

theorem videoSource_eq_ofNat (h1 h2 : Byte) : videoSource h1 h2 = BitVec.ofNat 16 (h1.toNat * 256 + h2.toNat / 16 * 16) := by
  have := h1.isLt
  have := h2.isLt
  apply BitVec.eq_of_toNat_eq
  rw [videoSource_toNat, BitVec.toNat_ofNat]
  omega

theorem videoDest_eq_ofNat (h3 h4 : Byte) : videoDest h3 h4 = BitVec.ofNat 16 (0x8000 + h3.toNat % 32 * 256 + h4.toNat) := by
  have := h4.isLt
  apply BitVec.eq_of_toNat_eq
  rw [videoDest_toNat, BitVec.toNat_ofNat]
  omega

/-- Settles O53: no destination of a video DMA triggers anything, so it is the bus agent's run of transactions. -/
theorem videoDmaIsReadAndWriteTransactions : Obligations.VideoDmaIsReadAndWriteTransactions := by
  intro s c hr hf
  dsimp only
  rw [← videoLength_eq, ← videoSource_eq_ofNat, ← videoDest_eq_ofNat]
  change execWmHdma5 c s = _
  split
  · rename_i hcolor
    have hmoves := moves_eq_endOf_copyBytes (n := videoLength c) (src := sourceOf s) (dst := destOf s)
      (s := s.putFlat s.cfg.regs.hdma5 c) hf (fun h => by rw [videoLength_eq] at h; omega) fun i hi => by
        obtain ⟨hadd, hlo, hhi⟩ := videoDest_add (flatCell s s.cfg.regs.hdma3) (flatCell s s.cfg.regs.hdma4) hi
        exact ⟨by rw [destOf, hadd]; omega, ioRow_low hr (by rw [destOf, hadd]; omega)⟩
    change _ = Host.Outcome.next (unlessFaulted (moves (videoLength c) (sourceOf s) (destOf s) (s.putFlat s.cfg.regs.hdma5 c)) _)
    rw [execWmHdma5_color hr hcolor, hmoves]
    exact finishTransfer_map (fun _ => rfl) fun t ht => (copyBytes_ok_sameRegisters ht).fault.trans hf
  · rename_i hplain
    unfold execWmHdma5
    dsimp only
    rw [if_neg hplain]
    rfl

/-! ## The mode bit of the video DMA (R190) -/

theorem storeByte_putFlat {w : Byte} (hb : b.toNat < 0xc000) :
    storeByte (s.putFlat a v) b w = (storeByte s b w).map fun t => t.putFlat a v := by
  unfold storeByte
  rw [State.putFlat_mode]
  cases hregion : regionW s.mode b with
  | eram => dsimp only [storeEram, State.putFlat]; split <;> rfl
  | flat => exact absurd hregion (regionW_ne_flat hb)
  | _ => rfl

theorem putFlat_putFlat_same (s : State) (a : Addr) (v w : Byte) : (s.putFlat a v).putFlat a w = s.putFlat a w := by
  simp only [State.putFlat, Memory.write_write_same]

/-- A readable transfer's copies complete: nothing else can end them (R193). -/
theorem copyBytes_ok (hrom : s.romBank.toNat < s.cfg.nRomBanks) (hopen : s.eramWindowOpen = true) :
    ∃ t, copyBytes n src dst s = .ok t := by
  rw [eramWindowOpen_iff] at hopen
  cases h : copyBytes n src dst s with
  | ok t => exact ⟨t, rfl⟩
  | error e =>
    rcases copyBytes_error (f := e.1) (t := e.2) h with ⟨hbank, -⟩ | ⟨hsel, hbank, -⟩
    · omega
    · have := hopen hsel
      omega

/-- The trigger byte is overwritten by the sentinel, and where no source reads it nothing else depends on it but the length. -/
theorem execWmHdma5_of_unread {c d : Byte} (hr : s.cfg.regs.wf = true) (hcolor : s.cfg.color = true)
    (hcopy : copyBytes (videoLength c) (sourceOf s) (destOf s) s = .ok t)
    (hsrc : ∀ i < videoLength c, sourceOf s + BitVec.ofNat 16 i ≠ s.cfg.regs.hdma5) (hlen : videoLength d = videoLength c) :
    execWmHdma5 d s = .next (t.putFlat s.cfg.regs.hdma5 0xff).complete := by
  rw [execWmHdma5_color hr hcolor, hlen,
    copyBytes_map (g := fun t => t.putFlat s.cfg.regs.hdma5 d) (fun i hi u => readByte_putFlat (hsrc i hi)) fun i hi u v => ?_, hcopy]
  · exact congrArg (fun t : State => Host.Outcome.next t.complete) (putFlat_putFlat_same t _ d 0xff)
  · obtain ⟨hadd, -, hhi⟩ := videoDest_add (flatCell s s.cfg.regs.hdma3) (flatCell s s.cfg.regs.hdma4) hi
    exact storeByte_putFlat (by rw [destOf, hadd]; omega)

theorem videoLength_set_mode (c : Byte) : videoLength (c ||| 0x80) = videoLength c := by
  rw [videoLength, videoLength, BitVec.and_comm, BitVec.and_or_distrib_left, BitVec.and_comm _ c]
  simp

theorem videoLength_clear_mode (c : Byte) : videoLength (c &&& 0x7f) = videoLength c := by
  rw [videoLength, videoLength, BitVec.and_assoc]
  rfl

/-- Settles O56: the two writes store different trigger bytes, which no source reads and the sentinel overwrites, and have one
length. -/
theorem videoDmaModeBitChangesNothing : Obligations.VideoDmaModeBitChangesNothing := by
  intro s c hr hcolor hrom hopen src hsrc
  obtain ⟨t, ht⟩ := copyBytes_ok (n := videoLength c) (src := sourceOf s) (dst := destOf s) hrom hopen
  exact (execWmHdma5_of_unread hr hcolor ht hsrc (videoLength_set_mode c)).trans
    (execWmHdma5_of_unread hr hcolor ht hsrc (videoLength_clear_mode c)).symm

end Sys2Proof.Machine
end

section
/-! PROOF. What the transfers leave in memory (spec 43_dma_hdma.md): a run of copies whose bytes are not overwritten before they are
read is one run of writes of those bytes. -/
namespace Sys2Proof.Machine
open Claims (stored)

/-- The memory with the `n` bytes of `bs` written from `k` on, in ascending order. -/
def Memory.writeRun (n k : Nat) (bs : Nat → Byte) (m : Memory) : Memory :=
  match n with
  | 0 => m
  | n + 1 => Memory.writeRun n (k + 1) (fun i => bs (i + 1)) (Memory.write m k (bs 0))

theorem Memory.read_writeRun (n k : Nat) (bs : Nat → Byte) (m : Memory) (j : Nat) :
    Memory.read (Memory.writeRun n k bs m) j = if k ≤ j ∧ j < k + n then bs (j - k) else Memory.read m j := by
  induction n generalizing k bs m with
  | zero => rw [if_neg (by omega)]; rfl
  | succ n ih =>
    rw [Memory.writeRun, ih, Memory.read_write]
    by_cases hfirst : j = k
    · rw [if_neg (by omega), if_pos hfirst, if_pos (by omega), hfirst, Nat.sub_self]
    · rw [if_neg hfirst]
      refine ite_congr (propext (by omega)) (fun h => ?_) fun _ => rfl
      rw [show j - (k + 1) + 1 = j - k by omega]

theorem Memory.read_writeRun_add {n i : Nat} (hi : i < n) (k : Nat) (bs : Nat → Byte) (m : Memory) :
    Memory.read (Memory.writeRun n k bs m) (k + i) = bs i := by
  rw [Memory.read_writeRun, if_pos (by omega), Nat.add_sub_cancel_left]

/-- The state with the `n` bytes of `bs` stored by `put` from `dst` on. -/
def State.putRun (put : State → Addr → Byte → State) (n : Nat) (dst : Addr) (bs : Nat → Byte) (s : State) : State :=
  match n with
  | 0 => s
  | n + 1 => State.putRun put n (dst + 1) (fun i => bs (i + 1)) (put s dst (bs 0))

variable {s t : State} {a b src dst : Addr} {v : Byte} {n : Nat} {bs : Nat → Byte}

/-- A run of copies whose destinations `put` stores to, and none of whose sources is overwritten before it is read. -/
theorem copyBytes_eq_putRun {put : State → Addr → Byte → State} (hmode : ∀ u a v, (put u a v).mode = u.mode)
    (hstore : ∀ i < n, ∀ u v, u.mode = s.mode → storeByte u (dst + BitVec.ofNat 16 i) v = .ok (put u (dst + BitVec.ofNat 16 i) v))
    (hread : ∀ i < n, ∀ u v b, b ≠ dst + BitVec.ofNat 16 i → readByte (put u (dst + BitVec.ofNat 16 i) v) b = readByte u b)
    (hbytes : ∀ i < n, readByte s (src + BitVec.ofNat 16 i) = .ok (bs i))
    (hapart : ∀ i < n, ∀ j < i, src + BitVec.ofNat 16 i ≠ dst + BitVec.ofNat 16 j) :
    copyBytes n src dst s = .ok (State.putRun put n dst bs s) := by
  induction n generalizing src dst s bs with
  | zero => rfl
  | succ n ih =>
    have hread0 : readByte s src = .ok (bs 0) := by simpa using hbytes 0 (by omega)
    have hstore0 : storeByte s dst (bs 0) = .ok (put s dst (bs 0)) := by simpa using hstore 0 (by omega) s (bs 0) rfl
    rw [copyBytes_succ_of_ok hread0 hstore0]
    refine ih (fun i hi u v hu => ?_) (fun i hi u v b hb => ?_) (fun i hi => ?_) fun i hi j hj => ?_
    · rw [addr_add_succ]; exact hstore (i + 1) (by omega) u v (hu.trans (hmode _ _ _))
    · rw [addr_add_succ] at hb ⊢; exact hread (i + 1) (by omega) u v b hb
    · have hkept : readByte (put s dst (bs 0)) (src + BitVec.ofNat 16 (i + 1)) = readByte s (src + BitVec.ofNat 16 (i + 1)) := by
        simpa using hread 0 (by omega) s (bs 0) _ (hapart (i + 1) (by omega) 0 (by omega))
      rw [addr_add_succ, hkept]
      exact hbytes (i + 1) (by omega)
    · rw [addr_add_succ, addr_add_succ]
      exact hapart (i + 1) (by omega) (j + 1) (by omega)

theorem exists_bytes (h : ∀ i < n, ∃ b, readByte s (src + BitVec.ofNat 16 i) = .ok b) :
    ∃ bs : Nat → Byte, ∀ i < n, readByte s (src + BitVec.ofNat 16 i) = .ok (bs i) := by
  choose! bs hbs using h
  exact ⟨bs, hbs⟩

theorem addr_succ_toNat (h : a.toNat + 1 < 0x10000) : (a + 1).toNat = a.toNat + 1 := by
  rw [BitVec.toNat_add]
  exact Nat.mod_eq_of_lt h

/-! ## A run of flat stores -/

theorem storeByte_flat (h : regionW s.mode a = .flat) : storeByte s a v = .ok (s.putFlat a v) := by
  rw [storeByte, h]

theorem putRun_putFlat (h : dst.toNat + n ≤ 0x10000) :
    State.putRun State.putFlat n dst bs s = { s with flat := Memory.writeRun n dst.toNat bs s.flat } := by
  induction n generalizing dst bs s with
  | zero => rfl
  | succ n ih =>
    rw [State.putRun]
    cases n with
    | zero => rfl
    | succ n =>
      have hsucc := addr_succ_toNat (a := dst) (by omega)
      rw [ih (by omega), hsucc]
      rfl

/-! ## A run of video-RAM stores -/

theorem storeByte_vram (h : within 0x8000 0xa000 a = true) : storeByte s a v = .ok (storeVram s a v) := by
  rw [storeByte, regionW_vram h]

theorem putRun_storeVram (hlo : 0x8000 ≤ dst.toNat) (hhi : dst.toNat + n ≤ 0xa000) :
    State.putRun storeVram n dst bs s = { s with vram := Memory.writeRun n (vramIndex s.vramBank dst) bs s.vram } := by
  induction n generalizing dst bs s with
  | zero => rfl
  | succ n ih =>
    have hsucc := addr_succ_toNat (a := dst) (by omega)
    have hindex : vramIndex s.vramBank (dst + 1) = vramIndex s.vramBank dst + 1 := by
      unfold vramIndex; omega
    rw [State.putRun, ih (by omega) (by omega), Memory.writeRun, ← hindex]
    rfl

/-- A byte read does not see a video-RAM store at another address. -/
theorem readByte_storeVram (ha : within 0x8000 0xa000 a = true) (hb : b ≠ a) : readByte (storeVram s a v) b = readByte s b := by
  unfold readByte
  rw [show (storeVram s a v).mode = s.mode from rfl]
  cases hregion : regionR s.mode b with
  | vram =>
    have hin : within 0x8000 0xa000 b = true := by
      by_contra hout
      unfold regionR at hregion
      simp only [hout, if_false] at hregion
      repeat' split at hregion
      all_goals cases hregion
    rw [within_iff] at ha hin
    have hne : b.toNat ≠ a.toNat := fun e => hb (BitVec.eq_of_toNat_eq e)
    have hindex : vramIndex s.vramBank b ≠ vramIndex s.vramBank a := by unfold vramIndex; omega
    exact congrArg Except.ok (Memory.read_write_other s.vram v hindex)
  | _ => rfl

/-! ## Object-memory DMA -/

theorem oamSource_add (v : Byte) (n : Nat) : oamSource v + BitVec.ofNat 16 n = BitVec.ofNat 16 (v.toNat * 256 + n) := by
  have := v.isLt
  apply BitVec.eq_of_toNat_eq
  rw [BitVec.toNat_add, oamSource_toNat, BitVec.toNat_ofNat, BitVec.toNat_ofNat]
  omega

theorem oamSource_add_toNat (hn : n < 256) : (oamSource v + BitVec.ofNat 16 n).toNat = v.toNat * 256 + n := by
  have := v.isLt
  rw [oamSource_add, BitVec.toNat_ofNat]
  omega

/-- A page whose window can be accessed is readable at each of its bytes. -/
theorem page_readable (hrom : 0x40 ≤ v.toNat → v.toNat < 0x80 → s.romBank.toNat < s.cfg.nRomBanks)
    (heram : 0xa0 ≤ v.toNat → v.toNat < 0xc0 → s.eramWindowOpen = true) (hn : n < 256) :
    ∃ b, readByte s (oamSource v + BitVec.ofNat 16 n) = .ok b := by
  have hadd := oamSource_add_toNat (v := v) hn
  cases h : readByte s (oamSource v + BitVec.ofNat 16 n) with
  | ok b => exact ⟨b, rfl⟩
  | error f =>
    rcases readByte_error h with ⟨hin, hbank, -⟩ | ⟨hin, hsel, hbank, -⟩ <;> rw [within_iff, hadd] at hin
    · have := hrom (by omega) (by omega)
      omega
    · have := eramWindowOpen_iff.mp (heram (by omega) (by omega)) hsel
      omega

/-- A readable page's object-memory DMA is one run of writes: no entry of the table is a source byte that is still to be read. -/
theorem execWmDma_eq_writeRun (hr : s.cfg.regs.wf = true)
    (hreadable : ∀ i < oamLength, ∃ b, readByte (s.putFlat s.cfg.regs.dma v) (oamSource v + BitVec.ofNat 16 i) = .ok b)
    (happart : s.cfg.regs.oam.toNat ≤ v.toNat * 256 ∨ v.toNat * 256 + 160 ≤ s.cfg.regs.oam.toNat) :
    ∃ bs : Nat → Byte,
      (∀ i < oamLength, readByte (s.putFlat s.cfg.regs.dma v) (oamSource v + BitVec.ofNat 16 i) = .ok (bs i)) ∧
      execWmDma v s = .next { s with
        flat := Memory.writeRun oamLength s.cfg.regs.oam.toNat bs (Memory.write s.flat s.cfg.regs.dma.toNat v),
        cycles := s.cycles + 150, response := none } := by
  obtain ⟨bs, hbs⟩ := exists_bytes hreadable
  have hcopy := copyBytes_eq_putRun (put := State.putFlat) (dst := s.cfg.regs.oam) (fun _ _ _ => rfl)
    (fun i hi u w hu => storeByte_flat (by
      rw [hu]
      exact regionW_oam (m := s.mode) hr (inOam_add hr hi)))
    (fun i hi u w b hb => readByte_putFlat hb) hbs fun i hi j hj e => by
      have he := congrArg BitVec.toNat e
      rw [oamLength] at hi
      rw [oamSource_add_toNat (by omega), AddrMap.wf_oam_add hr (by omega)] at he
      omega
  obtain ⟨-, hend, -⟩ := oamPlace_bounds (AddrMap.wf_oamPlace hr)
  rw [putRun_putFlat (n := oamLength) hend, State.putFlat_flat] at hcopy
  refine ⟨bs, hbs, ?_⟩
  rw [execWmDma, oamDma_eq, State.putFlat_cfg, hcopy]
  rfl

/-- Settles O54: what one run of writes leaves, read cell by cell. -/
theorem oamDmaCopiesTheSourcePage : Obligations.OamDmaCopiesTheSourcePage := by
  intro s v hr hrom heram happart
  obtain ⟨bs, hbs, hexec⟩ := execWmDma_eq_writeRun hr
    (fun i hi => page_readable hrom heram (Nat.lt_trans hi (by decide))) happart
  refine ⟨_, hexec, rfl, fun n hn => ?_, fun k hk => ?_⟩
  · rw [← oamSource_add, Memory.read_writeRun_add (n := oamLength) hn]
    exact hbs n hn
  · exact (Memory.read_writeRun _ _ _ _ _).trans ((if_neg hk).trans (Memory.read_write _ _ _ _))

/-! ## The video DMA -/

/-- A video DMA from a readable source to a part of the video-RAM window that it does not meet is one run of writes, and then the
sentinel in place of the trigger byte. -/
theorem execWmHdma5_eq_writeRun {c : Byte} (hr : s.cfg.regs.wf = true) (hcolor : s.cfg.color = true)
    (hrom : s.romBank.toNat < s.cfg.nRomBanks) (hopen : s.eramWindowOpen = true)
    (hend : (destOf s).toNat + videoLength c ≤ 0xa000)
    (hdisjoint : ∀ n, n < videoLength c → ¬ ((destOf s).toNat ≤ (sourceOf s + BitVec.ofNat 16 n).toNat ∧
      (sourceOf s + BitVec.ofNat 16 n).toNat < (destOf s).toNat + videoLength c)) :
    ∃ bs : Nat → Byte,
      (∀ i < videoLength c, readByte (s.putFlat s.cfg.regs.hdma5 c) (sourceOf s + BitVec.ofNat 16 i) = .ok (bs i)) ∧
      execWmHdma5 c s = .next { s with
        flat := Memory.write s.flat s.cfg.regs.hdma5.toNat 0xff,
        vram := Memory.writeRun (videoLength c) (vramIndex s.vramBank (destOf s)) bs s.vram, response := none } := by
  have hlow : 0x8000 ≤ (destOf s).toNat := by rw [destOf, videoDest_toNat]; omega
  have hadd {i : Nat} (hi : i < videoLength c) : (destOf s + BitVec.ofNat 16 i).toNat = (destOf s).toNat + i :=
    (videoDest_add _ _ hi).1
  have hin {i : Nat} (hi : i < videoLength c) : within 0x8000 0xa000 (destOf s + BitVec.ofNat 16 i) = true := by
    rw [within_iff, hadd hi]
    omega
  obtain ⟨bs, hbs⟩ := exists_bytes (s := s.putFlat s.cfg.regs.hdma5 c) (n := videoLength c) (src := sourceOf s) fun i _ =>
    readByte_ok _ hrom hopen
  have hcopy := copyBytes_eq_putRun (put := storeVram) (dst := destOf s) (fun _ _ _ => rfl)
    (fun i hi u w _ => storeByte_vram (hin hi)) (fun i hi u w b hb => readByte_storeVram (hin hi) hb) hbs
    fun i hi j hj e => hdisjoint i hi (by rw [e, hadd (by omega)]; omega)
  rw [putRun_storeVram hlow hend] at hcopy
  refine ⟨bs, hbs, ?_⟩
  rw [execWmHdma5_color hr hcolor, hcopy]
  simp only [Except.map, finishTransfer_ok, State.putFlat, State.complete, Memory.write_write_same]

/-- Settles O55: what the run of writes and the sentinel leave, read cell by cell. -/
theorem videoDmaCopiesDisjointRanges : Obligations.VideoDmaCopiesDisjointRanges := by
  intro s c hr hcolor hrom hopen s1 src dst len hend hdisjoint
  obtain ⟨bs, hbs, hexec⟩ := execWmHdma5_eq_writeRun hr hcolor hrom hopen hend hdisjoint
  refine ⟨_, hexec, rfl, stored_write s.flat _ 0xff, fun n hn => ?_, fun k hk => ?_⟩
  · exact (hbs n hn).trans (congrArg Except.ok (Memory.read_writeRun_add hn _ _ _).symm)
  · exact (Memory.read_writeRun _ _ _ _ _).trans (if_neg hk)

end Sys2Proof.Machine
end

section
/-! PROOF. What single operations do: the reads and the store of the windows whose pointer can name no bank (R111, R113, R127), the palette
reads (R119, R120), the commands of the cartridge controller (41_cartridge_controller.md) and the dispatcher's rows
(44_io_dispatcher.md) that no proof above settles. -/
namespace Sys2Proof.Machine
open Claims (selects stored switches limits)

variable {s : State} {m : Mode} {a : Addr} {v : Byte}

/-! ## Reads and stores through a pointer -/

/-- Settles O21: the window comes first in R61, and R28 (b) with R7 bounds the pointer of a legal state. -/
theorem readRomWindow : Obligations.ReadRomWindow := by
  refine fun s => ⟨selects_read (k := 14) (by decide) fun _ => decodeRead_romx, State.Legal.romBank_lt, fun a _ =>
    ⟨fun hbank => ?_, fun hbank => ?_⟩⟩
  · exact congrArg (answer s) (romCell_ok a hbank)
  · exact congrArg (answer s) (if_neg (Nat.not_lt.mpr hbank))

/-- Settles O23: with no selector mapped the window is external RAM, through the pointer as it is. -/
theorem readExternalRam : Obligations.ReadExternalRam := by
  refine fun s hsel => ⟨selects_read (k := 13) (by decide) fun _ => decodeRead_eram hsel, fun a _ =>
    ⟨fun hbank => ?_, fun hbank => ?_⟩⟩
  · exact congrArg (answer s) (eramCell_ok a hbank)
  · exact congrArg (answer s) (if_neg (Nat.not_lt.mpr hbank))

/-- Settles O31: likewise for the store, which faults before it has stored anything. -/
theorem storeExternalRam : Obligations.StoreExternalRam := by
  refine fun s hsel => ⟨selects_write (k := 13) (by decide) fun _ _ => decodeWrite_eram hsel, fun a v _ =>
    ⟨fun hbank => ⟨_, congrArg (finish s) (if_pos hbank), rfl, stored_write _ _ _⟩, fun hbank => ?_⟩⟩
  exact congrArg (finish s) (if_neg (Nat.not_lt.mpr hbank))

/-- Settles O28: each data port has its own line of R61 and answers the cell at its pair's index. -/
theorem readPaletteData : Obligations.ReadPaletteData := fun s hr =>
  ⟨selects_read_register (m := s.mode) (decodeRead_bgpd hr), selects_read_register (m := s.mode) (decodeRead_obpd hr), rfl, rfl⟩

/-! ## Commands without a bank switch -/

theorem isPlain_of_kind {k : Kind} (h : k = .noController ∨ k = .other) : k.isPlain = true := by
  rcases h with rfl | rfl <;> rfl

/-- Settles O36: the three operations are those of the windows and bytes to which R140 gives no effect. -/
theorem ignoredCommandsChangeNothing : Obligations.IgnoredCommandsChangeNothing := by
  refine fun s => ⟨selects_write (k := 13) (by decide) fun _ _ => decodeWrite_nopLow, fun hkind => ⟨?_, ?_⟩,
    fun hkind w hw hv => ?_, fun _ _ => ⟨rfl, rfl, rfl⟩⟩
  · exact selects_write (k := 13) (lo := 0x2000) (hi := 0x4000) (by decide) fun a v ha =>
      decodeWrite_nopKind (m := s.mode) (isPlain_of_kind hkind) (by rw [within_iff] at ha ⊢; omega)
  · exact selects_write (k := 14) (lo := 0x4000) (hi := 0x8000) (by decide) fun a v ha =>
      decodeWrite_nopKind (m := s.mode) (isPlain_of_kind hkind) (by rw [within_iff] at ha ⊢; omega)
  · obtain ⟨hdir, ha⟩ := isWindowPattern_fields (write := true) (k := 13) (lo := 0x4000) (hi := 0x6000) (by decide) hw
    exact (decode_write hdir).trans (decodeWrite_mbc3Secign hkind ha hv)

/-- Settles O42: the whole byte decides, and a byte that is neither 0 nor 1 stores no flag. -/
theorem mbc1ModeSelect : Obligations.Mbc1ModeSelect := by
  refine fun s => ⟨fun hkind => selects_write (k := 13) (by decide) fun _ _ => decodeWrite_mbc1Mode hkind, fun a v => ?_⟩
  change execWcMbc1Mode a v s = _
  unfold execWcMbc1Mode
  rw [modeFlag_eq]
  by_cases h0 : v.toNat = 0
  · simp only [if_pos h0]; rfl
  by_cases h1 : v.toNat = 1
  · simp only [if_neg h0, if_pos h1]; rfl
  · simp only [if_neg h0, if_neg h1]; rfl

/-- Settles O43: the call is made for byte 1, whatever the selector. -/
theorem mbc3LatchTrigger : Obligations.Mbc3LatchTrigger := by
  refine fun s => ⟨fun hkind => selects_write (k := 13) (by decide) fun _ _ => decodeWrite_mbc3Latch hkind, fun a v => ?_⟩
  change finish s (.ok (if (v == 0x01) = true then s.callClock .latch else s)) = _
  have hone : (v == 0x01) = true ↔ v.toNat = 1 := by rw [beq_iff_eq, ← BitVec.toNat_inj]; rfl
  by_cases h1 : v.toNat = 1
  · rw [if_pos (hone.mpr h1), if_pos h1]; rfl
  · rw [if_neg (fun h => h1 (hone.mp h)), if_neg h1]; rfl

/-! ## Commands through the bank switch (R152) -/

/-- What the model's bank switch makes of a candidate is what R152 says of its number. -/
theorem finish_bankSwitch_switches (s : State) {c : BitVec 7} {n : Nat} (hc : c.toNat = n) :
    switches s n (finish s (bankSwitch s c)) := by
  subst hc
  unfold switches bankSwitch
  rw [limits_getElem?]
  cases romLimit s.cfg.romClass with
  | none => rfl
  | some limit =>
    by_cases hclass : s.cfg.romClass = 0
    · exact ⟨s.complete, by simp only [if_pos hclass]; rfl, rfl, by rw [if_neg (fun h => h.1 hclass)]; rfl⟩
    by_cases hlt : c.toNat < limit
    · exact ⟨({ s with romBank := c } : State).complete, by simp only [if_neg hclass, if_pos hlt]; rfl, rfl,
        by rw [if_pos ⟨hclass, hlt⟩]; rfl⟩
    · exact ⟨s.complete, by simp only [if_neg hclass, if_neg hlt]; rfl, rfl, by rw [if_neg (fun h => hlt h.2)]; rfl⟩

/-- Settles O37: the candidate as a number is R143's. -/
theorem mbc1RomBankSelect : Obligations.Mbc1RomBankSelect := fun s =>
  ⟨fun hkind => selects_write (k := 13) (by decide) fun _ _ => decodeWrite_mbc1Romb hkind,
    fun _ v => finish_bankSwitch_switches s (mbc1RomCandidate_toNat s.romBank v)⟩

/-- Settles O38: the candidate as a number is R144's. -/
theorem mbc3RomBankSelect : Obligations.Mbc3RomBankSelect := fun s =>
  ⟨fun hkind => selects_write (k := 13) (by decide) fun _ _ => decodeWrite_mbc3Romb hkind,
    fun _ v => finish_bankSwitch_switches s (mbc3RomCandidate_toNat v)⟩

/-- Settles O39: the candidate as a number is R145's. -/
theorem mbc1RomHighSelect : Obligations.Mbc1RomHighSelect := fun s =>
  ⟨fun hkind hmode => selects_write (k := 13) (by decide) fun _ _ => decodeWrite_mbc1Romhi hkind hmode,
    fun _ v => finish_bankSwitch_switches s (mbc1HighCandidate_toNat s.romBank v)⟩

/-! ## Rows of the dispatcher -/

/-- Settles O45: the index and the flag are the fields of R203, and only one pair is written. -/
theorem writePaletteIndex : Obligations.WritePaletteIndex := by
  refine fun s hr => ⟨selects_register (m := s.mode) hr (by simp [AddrMap.toList]) fun _ => decodeFlatStore_bgpi hr,
    selects_register (m := s.mode) hr (by simp [AddrMap.toList]) fun _ => decodeFlatStore_obpi hr, fun v => ?_⟩
  rw [← incFlag_eq]
  exact ⟨⟨_, rfl, rfl, paletteIndex_toNat v, stored_write _ _ _⟩, ⟨_, rfl, rfl, paletteIndex_toNat v, stored_write _ _ _⟩⟩

/-- Settles O46: one palette cell and the flat cell are written, and the index is `nextIndex`'s. -/
theorem writePaletteData : Obligations.WritePaletteData := fun s hr =>
  ⟨selects_register (m := s.mode) hr (by simp [AddrMap.toList]) fun _ => decodeFlatStore_bgpd hr,
    selects_register (m := s.mode) hr (by simp [AddrMap.toList]) fun _ => decodeFlatStore_obpd hr, fun _ =>
    ⟨⟨_, rfl, rfl, stored_write _ _ _, stored_write _ _ _, nextIndex_toNat s.bgInc s.bgIdx⟩,
      ⟨_, rfl, rfl, stored_write _ _ _, stored_write _ _ _, nextIndex_toNat s.obInc s.obIdx⟩⟩⟩

/-- Settles O48: no named register lies in the window, so each of its writes takes the second sound row. -/
theorem writeWaveform : Obligations.WriteWaveform := fun s hr =>
  ⟨selects_write (m := s.mode) (k := 4) (by decide) fun _ _ => decodeWrite_sndWave hr,
    fun _ _ _ => ⟨_, rfl, rfl, stored_write _ _ _⟩⟩

/-- A register that R61 reads raw reads back what its flat cell holds. -/
theorem exec_read_raw (hraw : (Instr.rdFlat a).wf s.mode = true) :
    exec (decode s.mode (readWord a)) s = .next (s.respond (flatCell s a)) := by
  rw [decode_readWord, decodeRead_flat hraw]
  rfl

/-- Settles O49: the store comes first in both modes; only colour mode moves the pointer. -/
theorem videoRamBankSelect : Obligations.VideoRamBankSelect := by
  refine fun s hr => ⟨selects_register (m := s.mode) hr (by simp [AddrMap.toList]) fun _ => decodeFlatStore_vbk hr, fun v => ?_⟩
  have hraw : (Instr.rdFlat s.cfg.regs.vbk).wf s.mode = true := rdFlat_wf_raw_registers (m := s.mode) hr _ (by simp)
  have hread (t : State) (hmode : t.mode = s.mode) (hflat : t.flat = (s.putFlat s.cfg.regs.vbk v).flat) :
      exec (decode t.mode (readWord s.cfg.regs.vbk)) t = .next (t.respond v) := by
    rw [exec_read_raw (hmode ▸ hraw), flatCell, hflat]
    exact congrArg (fun b => Host.Outcome.next (t.respond b)) (flatCell_putFlat_same s _ v)
  change ∃ t, execWmVbk v s = .next t ∧ _
  unfold execWmVbk
  cases hcolor : s.cfg.color with
  | true => exact ⟨_, rfl, rfl, stored_write _ _ _, vramBankOf_toNat v, hread _ rfl rfl⟩
  | false => exact ⟨_, rfl, rfl, stored_write _ _ _, rfl, hread _ rfl rfl⟩

/-- Settles O50: likewise for the working-RAM pointer, whose 0 becomes 1 after the mask. -/
theorem workingRamBankSelect : Obligations.WorkingRamBankSelect := by
  refine fun s hr => ⟨selects_register (m := s.mode) hr (by simp [AddrMap.toList]) fun _ => decodeFlatStore_svbk hr, fun v => ?_⟩
  change ∃ t, execWmSvbk v s = .next t ∧ _
  unfold execWmSvbk
  cases hcolor : s.cfg.color with
  | true => exact ⟨_, rfl, rfl, stored_write _ _ _, wramBankOf_toNat v⟩
  | false => exact ⟨_, rfl, rfl, stored_write _ _ _, rfl⟩

end Sys2Proof.Machine
end
